-- ==== Sys2Proof/Syntax.lean ====
section
/-! DEFINITION. The nine operations of SCP (R63), with the operands the decoder hands over (R61, R71). -/

namespace Sys2Proof

/-- The operation set of SCP, one constructor per row of the opcode map (R63).
`rate` and `range` are the sign-extended operands of R61, mathematical integers; `rawFlag` is `CW[16]`, true when
asserted (R61). -/
inductive Instr where
  /-- ACC_ENABLE rate, range (R110). -/
  | accEnable (rate range : Int)
  /-- ACC_DISABLE (R111). -/
  | accDisable
  /-- ACC_READ (R112). -/
  | accRead
  /-- ACC_RDRANGE (R113). -/
  | accRdrange
  /-- MAG_INIT (R130). -/
  | magInit
  /-- MAG_ENABLE rate, range (R131). -/
  | magEnable (rate range : Int)
  /-- MAG_DISABLE (R132). -/
  | magDisable
  /-- MAG_READ (R133). -/
  | magRead
  /-- MAG_RDRAW flag (R134). -/
  | magRdraw (rawFlag : Bool)
  deriving DecidableEq, Repr

end Sys2Proof
end

