-- ==== Sys2Proof/Word.lean ====
section
/-! DEFINITION. The words of the conversion pipeline SCP: the byte of a register port, the command word of rule R60,
the payload word of rule R62 and the FLOAT format of rule R91. -/

namespace Sys2Proof

/-- One byte of a sensor register, and an 8-bit register address (R32, R37). -/
abbrev Byte := BitVec 8

/-- The 32-bit command word `CW` (R60). -/
abbrev CommandWord := BitVec 32

/-- A 64-bit payload word `V0..V2` of a response record (R62). -/
abbrev Word64 := BitVec 64

/-- The bit pattern of a `FLOAT` value: IEEE 754 binary64 (R5, R91). -/
abbrev Float64 := BitVec 64

/-- The two units of SCP (R2); the unit argument of a port primitive selects one of the two sensor spaces (R37). -/
inductive SensorUnit where
  | acc
  | mag
  deriving DecidableEq, Repr, Inhabited

end Sys2Proof
end

