-- ==== Sys2Proof/Decode.lean ====
section
/-! DEFINITION. The command decoder and the encoder, from the opcode map of R63, the field layout of R60 and the
operand assembly of R61. Decoding is total (R71): a word matches one row or is rejected by name. -/

namespace Sys2Proof

/-- Why the decoder rejects a word. SCP answers both with ILLEGAL_COMMAND (R65, R164); both are the spec's own
answer, so no run stops here. -/
inductive DecodeError where
  /-- `CW[31:24]` is none of the nine operation codes of R63. -/
  | unassignedOpcode
  /-- A listed operation code with a nonzero bit where its mask is set (R66). -/
  | reservedBits
  deriving DecidableEq, Repr

/-- `OPC = CW[31:24]` (R60). -/
def opcField (cw : CommandWord) : Byte := cw.extractLsb' 24 8

/-- `RAWF = CW[16]`, true when asserted (R60, R61). -/
def rawField (cw : CommandWord) : Bool := cw.getLsbD 16

/-- `rate = sext_8(CW[15:8])` (R61). -/
def rateField (cw : CommandWord) : Int := (cw.extractLsb' 8 8).toInt

/-- `range = sext_8(CW[7:0])` (R61). -/
def rangeField (cw : CommandWord) : Int := (cw.extractLsb' 0 8).toInt

/-- One row of the opcode map: a word `w` selects the row when `w & mask = match` (R63). -/
structure OpcodeRow where
  mtch : CommandWord
  mask : CommandWord
  /-- the instruction, given rate, range and raw flag -/
  build : Int → Int → Bool → Instr

/-- The opcode map of R63, in its order. -/
def opcodeTable : List OpcodeRow :=
  [ ⟨0x10000000#32, 0xFFFF0000#32, fun rate range _ => .accEnable rate range⟩,
    ⟨0x11000000#32, 0xFFFFFFFF#32, fun _ _ _ => .accDisable⟩,
    ⟨0x12000000#32, 0xFFFFFFFF#32, fun _ _ _ => .accRead⟩,
    ⟨0x13000000#32, 0xFFFFFFFF#32, fun _ _ _ => .accRdrange⟩,
    ⟨0x20000000#32, 0xFFFFFFFF#32, fun _ _ _ => .magInit⟩,
    ⟨0x21000000#32, 0xFFFF0000#32, fun rate range _ => .magEnable rate range⟩,
    ⟨0x22000000#32, 0xFFFFFFFF#32, fun _ _ _ => .magDisable⟩,
    ⟨0x23000000#32, 0xFFFFFFFF#32, fun _ _ _ => .magRead⟩,
    ⟨0x24000000#32, 0xFFFEFFFF#32, fun _ _ flag => .magRdraw flag⟩ ]

/-- The word selects the row (R63). -/
def OpcodeRow.selects (r : OpcodeRow) (cw : CommandWord) : Bool := cw &&& r.mask == r.mtch

/-- Why a word that selects no row is rejected. -/
def rejection (cw : CommandWord) : DecodeError :=
  if opcodeTable.any (fun r => opcField r.mtch == opcField cw) then .reservedBits else .unassignedOpcode

/-- The decoder (R71): the operation with its operands, or a rejection by name. -/
def decodeWord (cw : CommandWord) : Except DecodeError Instr :=
  match opcodeTable.find? (fun r => r.selects cw) with
  | some r => .ok (r.build (rateField cw) (rangeField cw) (rawField cw))
  | none => .error (rejection cw)

/-- The decoder on the table's own numbering of bits. A command word is presented whole, so its bits need no laying
out in bytes (R60, R68). -/
def decodeTableWord (nbits w : Nat) : Option Instr :=
  (decodeWord (BitVec.ofNat 32 (w % 2 ^ nbits))).toOption

/-! The encoder, from the same layout (R60, R63, R69). -/

/-- The operation code of R63. -/
def Instr.opc : Instr → Byte
  | .accEnable _ _ => 0x10#8
  | .accDisable => 0x11#8
  | .accRead => 0x12#8
  | .accRdrange => 0x13#8
  | .magInit => 0x20#8
  | .magEnable _ _ => 0x21#8
  | .magDisable => 0x22#8
  | .magRead => 0x23#8
  | .magRdraw _ => 0x24#8

/-- The rate operand, 0 where the operation has none (R69). -/
def Instr.rate : Instr → Int
  | .accEnable rate _ => rate
  | .magEnable rate _ => rate
  | .accDisable => 0
  | .accRead => 0
  | .accRdrange => 0
  | .magInit => 0
  | .magDisable => 0
  | .magRead => 0
  | .magRdraw _ => 0

/-- The range operand, 0 where the operation has none (R69). -/
def Instr.range : Instr → Int
  | .accEnable _ range => range
  | .magEnable _ range => range
  | .accDisable => 0
  | .accRead => 0
  | .accRdrange => 0
  | .magInit => 0
  | .magDisable => 0
  | .magRead => 0
  | .magRdraw _ => 0

/-- The raw flag, false where the operation has none (R69). -/
def Instr.rawFlag : Instr → Bool
  | .magRdraw flag => flag
  | .accEnable _ _ => false
  | .magEnable _ _ => false
  | .accDisable => false
  | .accRead => false
  | .accRdrange => false
  | .magInit => false
  | .magDisable => false
  | .magRead => false

/-- The fields of the command word put in their places, the reserved one zero (R60, R69). -/
def packFields (opc : Byte) (raw : Bool) (rate range : Byte) : CommandWord :=
  opc.setWidth 32 <<< 24 ||| (BitVec.ofBool raw).setWidth 32 <<< 16 ||| rate.setWidth 32 <<< 8 ||| range.setWidth 32

/-- The command word of an instruction:
`(OPC << 24) | (flag << 16) | ((rate & 0xFF) << 8) | (range & 0xFF)` (R69). -/
def encode (i : Instr) : CommandWord :=
  packFields i.opc i.rawFlag (BitVec.ofInt 8 i.rate) (BitVec.ofInt 8 i.range)

end Sys2Proof
end

