-- ==== Sys2Proof/Config.lean ====
section
/-! DEFINITION. What an implementation of SCP fixes (the OPEN parameters of R5, with their constraints) and the free
values: what the port, the timer and an unconstrained output `ANY(T)` give (R7, R36, R172). -/

namespace Sys2Proof

/-- The OPEN parameters of R5. A parameter with a value in R5 is no field here: it is a constant of the model. -/
structure Params where
  /-- `A_CTRL1`, `A_CTRL4`, the six `A_OUT_*` : accelerometer register addresses (D18). -/
  aCtrl1 : Byte
  aCtrl4 : Byte
  aOutXL : Byte
  aOutXH : Byte
  aOutYL : Byte
  aOutYH : Byte
  aOutZL : Byte
  aOutZH : Byte
  /-- `M_CRA`, `M_CRB`, `M_MODE`, `M_OUT_*`, `M_ID`: magnetometer register addresses (D18). -/
  mCra : Byte
  mCrb : Byte
  mMode : Byte
  mOutX : Byte
  mOutY : Byte
  mOutZ : Byte
  mId : Byte
  /-- `ACC_DEV_ADDR`, `MAG_DEV_ADDR`: the 7-bit bus addresses the ports are bound to (R30, D19). -/
  accDevAddr : BitVec 7
  magDevAddr : BitVec 7
  /-- `ACC_RATE_SET`, in rising order (D20). -/
  accRateSet : List (BitVec 5)
  /-- `ACC_RATE_100HZ` (D20). -/
  accRate100Hz : BitVec 5
  /-- `ACC_RANGE_4G`, `ACC_RANGE_8G`: 2-bit range codes (D21); `ACC_RANGE_2G` is 0 by R5. -/
  accRange4G : BitVec 2
  accRange8G : BitVec 2
  /-- `ACC_CTRL1_DISABLE` (D17). -/
  accCtrl1Disable : Byte
  /-- `MAG_MODE_CONTINUOUS`, `MAG_MODE_SLEEP` (D22). -/
  magModeContinuous : Byte
  magModeSleep : Byte
  deriving DecidableEq, Repr, Inhabited

namespace Params

/-- The eight accelerometer register addresses. -/
def accAddrs (p : Params) : List Byte :=
  [p.aCtrl1, p.aCtrl4, p.aOutXL, p.aOutXH, p.aOutYL, p.aOutYH, p.aOutZL, p.aOutZH]

/-- Accelerometer register addresses are pairwise distinct (R5, R43). -/
def accAddrsOk (p : Params) : Bool := decide p.accAddrs.Nodup

/-- The magnetometer registers as first address and number of bytes (R5, R22, R23). -/
def magSpans (p : Params) : List (Nat × Nat) :=
  [ (p.mCra.toNat, 1), (p.mCrb.toNat, 1), (p.mMode.toNat, 1), (p.mOutX.toNat, 2), (p.mOutY.toNat, 2),
    (p.mOutZ.toNat, 2), (p.mId.toNat, 3) ]

/-- Two byte ranges are disjoint. -/
def spansDisjoint (a b : Nat × Nat) : Bool := decide (a.1 + a.2 ≤ b.1) || decide (b.1 + b.2 ≤ a.1)

/-- Magnetometer byte ranges are pairwise disjoint (R43) and none runs past 0xFF (R40, D25). -/
def magSpansOk (p : Params) : Bool :=
  decide (p.magSpans.Pairwise fun a b => spansDisjoint a b = true) && p.magSpans.all (fun a => decide (a.1 + a.2 ≤ 256))

/-- The two bus addresses are distinct (R5, D19). -/
def devAddrsOk (p : Params) : Bool := p.accDevAddr != p.magDevAddr

/-- `ACC_RATE_SET` has exactly nine members, in 0..31, and contains `ACC_RATE_100HZ` (R5, D20). -/
def rateSetOk (p : Params) : Bool :=
  decide (p.accRateSet.Pairwise (fun a b => a.toNat < b.toNat)) && p.accRateSet.length == 9 &&
    p.accRateSet.contains p.accRate100Hz

/-- `ACC_RANGE_4G` and `ACC_RANGE_8G` are two distinct values in 1..3 (R5, D21). -/
def rangesOk (p : Params) : Bool :=
  p.accRange4G != 0#2 && p.accRange8G != 0#2 && p.accRange4G != p.accRange8G

/-- `ACC_CTRL1_DISABLE` has bits 7 to 3 zero (R5, D17). -/
def disableByteOk (p : Params) : Bool := p.accCtrl1Disable.extractLsb' 3 5 == 0#5

/-- The two mode bytes are distinct (R5, D22). -/
def modesOk (p : Params) : Bool := p.magModeContinuous != p.magModeSleep

/-- Every constraint of R5, R40 and R43 on the OPEN parameters. -/
def admissible (p : Params) : Bool :=
  p.accAddrsOk && p.magSpansOk && p.devAddrsOk && p.rateSetOk && p.rangesOk && p.disableByteOk && p.modesOk

/-- The reference instantiation REF of the test vectors, with candidate addresses of 93 G2 and G7: not normative.
It shows that the constraints can be met. -/
def reference : Params where
  aCtrl1 := 0x20#8
  aCtrl4 := 0x23#8
  aOutXL := 0x28#8
  aOutXH := 0x29#8
  aOutYL := 0x2A#8
  aOutYH := 0x2B#8
  aOutZL := 0x2C#8
  aOutZH := 0x2D#8
  mCra := 0x00#8
  mCrb := 0x01#8
  mMode := 0x02#8
  mOutX := 0x03#8
  mOutY := 0x05#8
  mOutZ := 0x07#8
  mId := 0x0A#8
  accDevAddr := 0x18#7
  magDevAddr := 0x1E#7
  accRateSet := [4#5, 5#5, 6#5, 7#5, 8#5, 12#5, 16#5, 20#5, 24#5]
  accRate100Hz := 5#5
  accRange4G := 1#2
  accRange8G := 3#2
  accCtrl1Disable := 0x00#8
  magModeContinuous := 0x00#8
  magModeSleep := 0x03#8

end Params

/-- A configuration of SCP: admissible parameters. A configuration that violates R40 or R43 is refused here, since it
cannot be written down (D25). -/
structure Config where
  params : Params
  ok : params.admissible = true
  deriving DecidableEq, Repr

/-- The value a failed port primitive reports; its type is the port's and opaque to SCP (R62), so all that the model
knows of two errors is whether they are equal. -/
structure PortError where
  code : Nat
  deriving DecidableEq, Repr, Inhabited

/-- The three outcomes of a port primitive (R36). An answer carries the bytes at the register and at the two addresses
after it; a primitive uses as many of them as its width (R33, R34, R35), a write none. -/
inductive PortReply where
  | completes (b0 b1 b2 : Byte)
  | fails (e : PortError)
  | stalls
  deriving DecidableEq, Repr, Inhabited

/-- The settle timer expires or it never does (R172, R200). -/
inductive TimerReply where
  | expires
  | never
  deriving DecidableEq, Repr, Inhabited

namespace Config

/-- A configuration exists (used only as what `installed` falls back on). -/
def reference : Config := ⟨Params.reference, by decide⟩

/-- The parameters of the SCP at hand: OPEN in R5, so nothing is known of them. -/
opaque installedParams : Params

/-- The configuration of the SCP at hand: any admissible one. -/
def installed : Config :=
  if h : installedParams.admissible = true then ⟨installedParams, h⟩ else reference

/-- What the port answers to the call of a given number, where no answer is written in the state: decided outside SCP
and constrained by nothing (R36, R52). -/
opaque portReply : Nat → PortReply

/-- What the timer does at the delay of a given number, where no answer is written in the state (R172). -/
opaque timerReply : Nat → TimerReply

/-- The `ANY(FLOAT)` of a given number (R7, R112, R133). -/
opaque freeFloat : Nat → Float64

/-- The unspecified contents of a gain register, of a given number (R13, R190). -/
opaque freeGain : Nat → BitVec 11

/-- `fmul` where an operand is infinite or NaN: R91 states no result (no such operand occurs). -/
opaque fmulOpen : Float64 → Float64 → Float64

/-- `fdiv` where an operand is infinite or NaN or the divisor is zero: R91 states no result (no such operand occurs). -/
opaque fdivOpen : Float64 → Float64 → Float64

end Config

end Sys2Proof
end

