-- ==== Sys2Proof/Machine/Binary64.lean ====
section
/-! DEFINITION. The FLOAT format (R5, R90 to R92): IEEE 754 binary64 as bit patterns, with `i2f`, `fmul` and `fdiv`
computed exactly and rounded once, to nearest, ties to even.

Every finite magnitude is a whole number of units of 2 ^ -1074 (the least subnormal), so values are compared and
rounded as natural numbers of units. -/

namespace Sys2Proof.Machine

/-- The place of 1.0 above one unit. (Irreducible, so that no tactic writes a power of it out.) -/
@[irreducible] def onePlace : Nat := 1074

/-- How many units make 1.0. -/
def unitsPerOne : Nat := 2 ^ onePlace

/-- The sign bit. -/
def floatNeg (x : Float64) : Bool := x.msb

/-- The 11-bit exponent field. -/
def floatExp (x : Float64) : Nat := x.toNat / 2 ^ 52 % 2 ^ 11

/-- The 52-bit fraction field. -/
def floatFrac (x : Float64) : Nat := x.toNat % 2 ^ 52

/-- Neither infinite nor NaN. -/
def floatFinite (x : Float64) : Bool := decide (floatExp x < 2047)

/-- The magnitude of a finite pattern, in units. -/
def floatUnits (x : Float64) : Nat :=
  if floatExp x = 0 then floatFrac x else (2 ^ 52 + floatFrac x) * 2 ^ (floatExp x - 1)

/-- A pattern from its sign and its 63 lower bits. -/
def floatPack (neg : Bool) (mag : Nat) : Float64 := BitVec.ofNat 64 ((if neg then 2 ^ 63 else 0) + mag)

/-- The 63 lower bits of the infinities. -/
def infBits : Nat := 2047 * 2 ^ 52

/-- `+INF` (R94). -/
def plusInf : Float64 := floatPack false infBits

/-- The integer nearest to `num / den`, the even one of two equally near. -/
def nearestEven (num den : Nat) : Nat :=
  if 2 * (num % den) < den then num / den
  else if den < 2 * (num % den) then num / den + 1
  else num / den + num / den % 2

/-- The place of the leading bit of a number below 2 ^ 4096, found by halving the places it may stand at. -/
def leadingPlace : List Nat → Nat → Nat
  | [], _ => 0
  | p :: ps, n => if 2 ^ p ≤ n then p + leadingPlace ps (n / 2 ^ p) else leadingPlace ps n

/-- `Nat.log2`, in a few steps where the halving finds the leading bit (it does below 2 ^ 4096): Lean's kernel takes as
many steps for `Nat.log2` as the number has bits. -/
def floorLog2 (n : Nat) : Nat :=
  if n / 2 ^ leadingPlace [2048, 1024, 512, 256, 128, 64, 32, 16, 8, 4, 2, 1] n = 1 then
    leadingPlace [2048, 1024, 512, 256, 128, 64, 32, 16, 8, 4, 2, 1] n
  else Nat.log2 n

/-- How far the result's last place stands above one unit, for a magnitude of `n` units and a fraction. -/
def lastPlace (n : Nat) : Nat := floorLog2 n - 52

/-- The 63 lower bits of the FLOAT nearest to `num / den` units. With last place `k` and significand `m` they are
`k * 2 ^ 52 + m`, and a carry out of `m` lands in the exponent; past the largest finite value they are infinity's. -/
def roundUnits (num den : Nat) : Nat :=
  min (lastPlace (num / den) * 2 ^ 52 + nearestEven num (den * 2 ^ lastPlace (num / den))) infBits

/-- `i2f(n)` (R90). -/
def i2f (n : Int) : Float64 := floatPack (decide (n < 0)) (roundUnits (n.natAbs * unitsPerOne) 1)

/-- `fmul(a, b)`: the exact product, rounded once (R91). R91 states no result for an infinite or NaN operand: there the
result is a free value (log 13). -/
def fmul (a b : Float64) : Float64 :=
  if floatFinite a && floatFinite b then
    floatPack (floatNeg a != floatNeg b) (roundUnits (floatUnits a * floatUnits b) unitsPerOne)
  else Config.fmulOpen a b

/-- `fdiv(a, b)`: the exact quotient, rounded once (R91). R91 states no result for an infinite or NaN operand or a zero
divisor: there the result is a free value (log 13). -/
def fdiv (a b : Float64) : Float64 :=
  if floatFinite a && floatFinite b && floatUnits b != 0 then
    floatPack (floatNeg a != floatNeg b) (roundUnits (floatUnits a * unitsPerOne) (floatUnits b))
  else Config.fdivOpen a b

/-! Constants (R85, R92): the FLOAT nearest to each decimal. -/

def float1 : Float64 := 0x3FF0000000000000#64
def float2 : Float64 := 0x4000000000000000#64
def float3p9 : Float64 := 0x400F333333333333#64
def float9p80665 : Float64 := 0x40239D013A92A305#64
def float1000 : Float64 := 0x408F400000000000#64
def float100 : Float64 := 0x4059000000000000#64

/-- `ACC_UNIT = fdiv(9.80665, 1000.0)` (R92). -/
def accUnit : Float64 := fdiv float9p80665 float1000

end Sys2Proof.Machine
end

