-- ==== Sys2Proof/Machine/Flags.lean ====
section
/-! DEFINITION. SCP has no condition codes (10_state.md section 2). The conditions it computes and does not store: the
saturation of a magnetometer axis (R89) and the identity match of MAG_INIT (R130). The two stored ones are fields of
State: `MAG.PHASE` (R12) and `MAG.GAIN_VALID` (R13). -/

namespace Sys2Proof.Machine

/-- `MAG_SAT_RAW` (R5). -/
def magSatRaw : Int := -4096

/-- `mag_sat(raw)`: the raw integer is exactly -4096 (R89). -/
def magSat (raw : Int) : Bool := raw == magSatRaw

/-- `MAG_ID_CONST` (R5). -/
def magIdConst : Int := 0x483433

/-- The identity read equals the constant in all 24 bits (R130). -/
def magIdMatches (id : Int) : Bool := id == magIdConst

end Sys2Proof.Machine
end

