-- ==== Sys2Proof/Machine/Operands.lean ====
section
/-! DEFINITION. The integer operands of the operations: the checks of rate and range against the sensor's valid set
(R110, R131), the bytes written to the control registers (R17 to R21), the 12-bit accelerometer sample (R81 to R83) and
the 2-bit range field (R84). -/

namespace Sys2Proof.Machine

/-! ## Valid operands -/

/-- `ACC_RANGE_2G` (R5). -/
def accRange2G : BitVec 2 := 0#2

/-- `rate ∈ ACC_RATE_SET` (R110). -/
def accRateValid (p : Params) (rate : Int) : Bool := p.accRateSet.any fun c => (c.toNat : Int) == rate

/-- `range ∈ {ACC_RANGE_2G, ACC_RANGE_4G, ACC_RANGE_8G}` (R110). -/
def accRangeValid (p : Params) (range : Int) : Bool :=
  [accRange2G, p.accRange4G, p.accRange8G].any fun c => (c.toNat : Int) == range

/-- `0 <= rate < 7` (R131). -/
def magRateValid (rate : Int) : Bool := decide (0 ≤ rate) && decide (rate < 7)

/-- `1 <= range < 8` (R131). -/
def magRangeValid (range : Int) : Bool := decide (1 ≤ range) && decide (range < 8)

/-! ## Bytes written to control registers -/

/-- `(rate << 3) | 0b111`: bits 7 to 3 the rate, the three axes enabled (R17, R110). -/
def accCtrl1Byte (rate : Int) : Byte := BitVec.ofInt 8 (rate <<< 3) ||| 0b111#8

/-- `range << 4`: bits 5 and 4 the range, the others 0 (R18, R110). -/
def accCtrl4Byte (range : Int) : Byte := BitVec.ofInt 8 (range <<< 4)

/-- `rate << 2` (R19, R131). -/
def magCraByte (rate : Int) : Byte := BitVec.ofInt 8 (rate <<< 2)

/-- `range << 5` (R20, R131). -/
def magCrbByte (range : Int) : Byte := BitVec.ofInt 8 (range <<< 5)

/-! ## Samples and fields read -/

/-- `acc_assemble(h, l) = (h << 4) | (l >> 4)`, the 12-bit signed sample (R82): both operands of the OR are taken as
12-bit two's-complement patterns, which hold them whole. -/
def accAssemble (h l : Int) : Int := (BitVec.ofInt 12 (h <<< 4) ||| BitVec.ofInt 12 (l >>> 4)).toInt

/-- `acc_range_field(b) = (b >> 4) & 0b11` (R84). -/
def accRangeField (b : Int) : BitVec 2 := BitVec.ofInt 2 (b >>> 4)

end Sys2Proof.Machine
end

