-- ==== Sys2Proof/Machine/Datapath.lean ====
section
/-! DEFINITION. The two conversion pipelines (R80): the accelerometer's gain multiplexer and scaling (R85, R86), the
magnetometer's gain table, scaling and output multiplexer (R88, R93, R94). -/

namespace Sys2Proof.Machine

/-- `acc_gain(f)`, the gain multiplexer: none for the one 2-bit value that is no range code (R85). -/
def accGain (p : Params) (f : BitVec 2) : Option Float64 :=
  if f = accRange2G then some float1
  else if f = p.accRange4G then some float2
  else if f = p.accRange8G then some float3p9
  else none

/-- `acc_scale(raw, g) = fmul(fmul(i2f(raw), g), ACC_UNIT)`, in m/s² (R86). -/
def accScale (raw : Int) (g : Float64) : Float64 := fmul (fmul (i2f raw) g) accUnit

/-- `MAG_GAIN_LUT`: the pairs (gain_xy, gain_z) of ranges 1 to 7 (R5, R88). -/
def magGainTable : Vector (BitVec 11 × BitVec 11) 7 :=
  #v[(1055#11, 950#11), (795#11, 710#11), (635#11, 570#11), (430#11, 385#11), (375#11, 335#11), (320#11, 285#11),
    (230#11, 205#11)]

/-- The table's key for a validated range code: 0 for range 1 and so on; none for a code that validation rejects
(R88, R131). -/
def magRangeKey (range : Int) : Option (Fin 7) :=
  if h : magRangeValid range = true then
    some ⟨(range - 1).toNat, by simp [magRangeValid] at h; omega⟩
  else none

/-- `mag_gain_lut(range)` (R88). -/
def magGainLut (key : Fin 7) : BitVec 11 × BitVec 11 := magGainTable[key]

/-- `mag_scale(raw, g) = fdiv(fmul(i2f(raw), 100.0), i2f(g))`, in microtesla (R93). -/
def magScale (raw : Int) (g : BitVec 11) : Float64 := fdiv (fmul (i2f raw) float100) (i2f g.toNat)

/-- `mag_convert(raw, g)`: `+INF` for a saturated axis, else the scaled value (R94). -/
def magConvert (raw : Int) (g : BitVec 11) : Float64 := if magSat raw then plusInf else magScale raw g

end Sys2Proof.Machine
end

