-- ==== Sys2Proof/Machine/State.lean ====
section
/-! DEFINITION. The state of SCP: the four architectural elements of R10 to R13, the command port of R25, the event
history of R45, the response port's record (R62), what the host has still to present (R208, R209), and what the model
needs to answer from outside the block (port, timer, free values). -/

namespace Sys2Proof.Machine

/-- `MAG.PHASE` (R12). -/
inductive Phase where
  | unbound
  | disabled
  | enabled
  deriving DecidableEq, Repr, Inhabited

/-- The 2-bit value of `MAG.PHASE` (R12). -/
def Phase.code : Phase → BitVec 2
  | .unbound => 0#2
  | .disabled => 1#2
  | .enabled => 2#2

/-- The status of a response (R160). -/
inductive Status where
  | ok
  | invalidArgumentRate
  | invalidArgumentRange
  | invalidArgumentRaw
  | unrecognizedDevice
  | transportError
  | notConstructed
  | illegalCommand
  deriving DecidableEq, Repr, Inhabited

/-- The 8-bit code of a status (R160). -/
def Status.code : Status → Byte
  | .ok => 0x00#8
  | .invalidArgumentRate => 0x01#8
  | .invalidArgumentRange => 0x02#8
  | .invalidArgumentRaw => 0x03#8
  | .unrecognizedDevice => 0x04#8
  | .transportError => 0x05#8
  | .notConstructed => 0x06#8
  | .illegalCommand => 0x07#8

/-- The payload of a response: `NV` is 0, 1 or 3 (R62). -/
inductive Payload where
  | none
  | one (v0 : Word64)
  | three (v0 v1 v2 : Word64)
  deriving DecidableEq, Repr, Inhabited

/-- `NV`, the number of payload words (R62). -/
def Payload.nv : Payload → Nat
  | .none => 0
  | .one _ => 1
  | .three _ _ _ => 3

/-- A response record (R62): `INFO` is present only with TRANSPORT_ERROR. -/
structure Response where
  status : Status
  info : Option PortError
  payload : Payload
  deriving DecidableEq, Repr, Inhabited

/-- How a recorded call came out (R45): its value, its error, or no answer at all (R36 outcome c). -/
inductive CallResult (α : Type) where
  | value (v : α)
  | err (e : PortError)
  | noAnswer
  deriving DecidableEq, Repr

/-- An event of the event history (R45): the five port primitives and the delay, in milliseconds. -/
inductive Event where
  | w8 (u : SensorUnit) (addr v : Byte) (r : CallResult Unit)
  | r8u (u : SensorUnit) (addr : Byte) (r : CallResult Int)
  | r8s (u : SensorUnit) (addr : Byte) (r : CallResult Int)
  | r16be (u : SensorUnit) (addr : Byte) (r : CallResult Int)
  | r24be (u : SensorUnit) (addr : Byte) (r : CallResult Int)
  | delay (ms : Nat)
  deriving DecidableEq, Repr

/-- The command port (R25, R72): idle and ready, or busy with an operation. Since an operation is one step, busy is
seen between steps only after an operation that never ends (R172). -/
inductive CommandPort where
  | idle
  | busy
  deriving DecidableEq, Repr, Inhabited

/-- What the host may do to SCP (R209): present a command word, or reset. -/
inductive HostInput where
  | command (cw : CommandWord)
  | reset
  deriving DecidableEq, Repr

/-- No step of SCP faults: every command word is answered (R65, R71) and an operation that never ends is a next state
with the command port busy (R172). The type is empty, so no run can be lost in a fault: safe. -/
inductive Fault where
  deriving DecidableEq, Repr

/-- Why a step is refused. -/
inductive Refusal where
  /-- Raised by an arm of `exec` whose operation has no meaning yet; safe. Every operation has one, so no step
  raises it. -/
  | notModelled (mnemonic : String)
  deriving DecidableEq, Repr

/-- The state of SCP. The first five fields are what R5 and R10 to R13 give the block; the command port is R25's. The
history and the responses are its outputs (R45, R62). The others belong to the model: what comes from outside. -/
structure State where
  /-- the OPEN parameters (R5): wiring, never changed by a step -/
  cfg : Config
  /-- `MAG.PHASE` (R12) -/
  phase : Phase
  /-- `MAG.GAIN_VALID` (R13) -/
  gainValid : Bool
  /-- `MAG.GAIN_XY` (R11) -/
  gainXy : BitVec 11
  /-- `MAG.GAIN_Z` (R11) -/
  gainZ : BitVec 11
  /-- the command port (R25, R72) -/
  commandPort : CommandPort
  /-- the event history, oldest first (R45) -/
  history : List Event
  /-- the response records delivered to the host, oldest first (R62) -/
  responses : List Response
  /-- what the host will present, next first (R208, R209) -/
  hostInputs : List HostInput
  /-- the port's coming answers as far as they are written down, next first (R36) -/
  replies : List PortReply
  /-- how many port calls have been made: numbers the free answers beyond `replies` -/
  calls : Nat
  /-- the timer's coming answers as far as they are written down, next first (R172) -/
  timerReplies : List TimerReply
  /-- how many delays have been begun: numbers the free answers beyond `timerReplies` -/
  delays : Nat
  /-- how many free values have been drawn (R7) -/
  draws : Nat
  deriving DecidableEq, Repr

/-- SCP right after reset (R25, R190). The gain registers are unspecified there: the model names 0 (log 10). The
environment's fields are empty or 0 (log 2, 7, 11). -/
def State.reset : State where
  cfg := Config.installed
  phase := .unbound
  gainValid := false
  gainXy := 0#11
  gainZ := 0#11
  commandPort := .idle
  history := []
  responses := []
  hostInputs := []
  replies := []
  calls := 0
  timerReplies := []
  delays := 0
  draws := 0

end Sys2Proof.Machine
end

