-- ==== Sys2Proof/Machine/Ops.lean ====
section
/-! DEFINITION. The operations every meaning is written over: delivering a response, ending with an error (what an error
does, R168), the five port primitives (R31 to R36), the settle delay (R200), the free outputs `ANY(FLOAT)` (R7), and the
writes of the MAG state (R179).

A primitive takes what the operation does next as its last argument: that is done only if the call completes. -/

namespace Sys2Proof.Machine

/-! ## Responses and errors -/

/-- Append an event to the history (R45: append-only). -/
def State.record (s : State) (ev : Event) : State := { s with history := s.history ++ [ev] }

/-- Deliver a response record to the host; SCP is then idle (R62, R72, R168). -/
def State.deliver (s : State) (r : Response) : State :=
  { s with responses := s.responses ++ [r], commandPort := .idle }

/-- `respond OK(payload)` (R8, R62). -/
def State.respondOk (s : State) (p : Payload) : State := s.deliver ⟨.ok, none, p⟩

/-- `raise <Error>()`: the operation ends at once with the error's status and no payload; nothing is saved, no mode
changes and control goes nowhere but back to the host (R8, R62, R168). -/
def State.raise (s : State) (st : Status) : State := s.deliver ⟨st, none, .none⟩

/-- `raise TransportError(e)`: `INFO` is the port's error, unchanged (R62, R165). -/
def State.raiseTransport (s : State) (e : PortError) : State := s.deliver ⟨.transportError, some e, .none⟩

/-- The operation never ends: no response, the command port stays busy (R72, R172). -/
def State.hang (s : State) : State := { s with commandPort := .busy }

/-! ## The register ports -/

/-- The port's `j`-th coming answer: the one written in the state, else a free one (R36, R52). -/
def State.portReply (s : State) (j : Nat) : PortReply := s.replies.getD j (Config.portReply (s.calls + j))

/-- One answer of the port is used up. -/
def State.afterCall (s : State) : State := { s with replies := s.replies.tail, calls := s.calls + 1 }

/-- One call of a port primitive (R36): it completes with the value read off the answered bytes and the operation goes
on with `k`; it fails and the operation ends there (R165); or it never completes (R172). Each way it appends one event
(R8, R45). -/
def portCall {α : Type} (event : CallResult α → Event) (value : Byte → Byte → Byte → α) (s : State)
    (k : α → State → State) : State :=
  match s.portReply 0 with
  | .completes b0 b1 b2 => k (value b0 b1 b2) (s.afterCall.record (event (.value (value b0 b1 b2))))
  | .fails e => (s.afterCall.record (event (.err e))).raiseTransport e
  | .stalls => (s.afterCall.record (event .noAnswer)).hang

/-- The value of `PortRead_u8`: the byte as an unsigned integer (R33). -/
def valueU8 (b0 _b1 _b2 : Byte) : Int := b0.toNat

/-- The value of `PortRead_i8`: `sext_8` of the byte (R33). -/
def valueI8 (b0 _b1 _b2 : Byte) : Int := b0.toInt

/-- The value of `PortRead_i16be`: `sext_16(b0 ∥ b1)`, the byte at the lower address the more significant (R34, R38). -/
def valueI16be (b0 b1 _b2 : Byte) : Int := (b0 ++ b1).toInt

/-- The value of `PortRead_u24be`: `zext_24(b0 ∥ b1 ∥ b2)`, most significant byte first (R35, R38). -/
def valueU24be (b0 b1 b2 : Byte) : Int := ((b0 ++ b1) ++ b2).toNat

/-- `PortWrite_u8(u, addr, v)` (R32). -/
def portWriteU8 (u : SensorUnit) (addr v : Byte) (s : State) (k : State → State) : State :=
  portCall (Event.w8 u addr v) (fun _ _ _ => ()) s fun _ s' => k s'

/-- `PortRead_u8(u, addr)` (R33). -/
def portReadU8 (u : SensorUnit) (addr : Byte) (s : State) (k : Int → State → State) : State :=
  portCall (Event.r8u u addr) valueU8 s k

/-- `PortRead_i8(u, addr)` (R33). -/
def portReadI8 (u : SensorUnit) (addr : Byte) (s : State) (k : Int → State → State) : State :=
  portCall (Event.r8s u addr) valueI8 s k

/-- `PortRead_i16be(u, addr)` (R34). -/
def portReadI16be (u : SensorUnit) (addr : Byte) (s : State) (k : Int → State → State) : State :=
  portCall (Event.r16be u addr) valueI16be s k

/-- `PortRead_u24be(u, addr)` (R35). -/
def portReadU24be (u : SensorUnit) (addr : Byte) (s : State) (k : Int → State → State) : State :=
  portCall (Event.r24be u addr) valueU24be s k

/-! ## The settle timer -/

/-- What the timer does at the next delay: as written in the state, else free (R172). -/
def State.timerReply (s : State) : TimerReply := s.timerReplies.headD (Config.timerReply s.delays)

/-- One answer of the timer is used up. -/
def State.afterDelay (s : State) : State := { s with timerReplies := s.timerReplies.tail, delays := s.delays + 1 }

/-- `Delay(t)`: blocks for at least `t` milliseconds, or for ever if the timer never expires (R8, R172, R200). -/
def portDelay (ms : Nat) (s : State) (k : State → State) : State :=
  match s.timerReply with
  | .expires => k (s.afterDelay.record (.delay ms))
  | .never => (s.afterDelay.record (.delay ms)).hang

/-! ## Unconstrained outputs -/

/-- The next three free values `ANY(FLOAT)`, as a payload (R7). -/
def State.freePayload (s : State) : Payload :=
  .three (Config.freeFloat s.draws) (Config.freeFloat (s.draws + 1)) (Config.freeFloat (s.draws + 2))

/-- `respond OK(ANY(FLOAT), ANY(FLOAT), ANY(FLOAT))` (R112, R133). -/
def State.respondFree (s : State) : State := { s with draws := s.draws + 3 }.respondOk s.freePayload

/-! ## The MAG state -/

/-- `MAG.PHASE <- UNBOUND`, `MAG.GAIN_VALID <- 0`, the gain registers unspecified: free values (R13, R130, R190). -/
def State.unbindMag (s : State) : State :=
  { s with
    phase := .unbound
    gainValid := false
    gainXy := Config.freeGain s.draws
    gainZ := Config.freeGain (s.draws + 1)
    draws := s.draws + 2 }

/-- `MAG.PHASE <- ph`, nothing else (R130, R132). -/
def State.setPhase (s : State) (ph : Phase) : State := { s with phase := ph }

/-- The commit of MAG_ENABLE, in one step: both gains, `MAG.GAIN_VALID` and `MAG.PHASE` (R131). -/
def State.commitGains (s : State) (gains : BitVec 11 × BitVec 11) : State :=
  { s with gainXy := gains.1, gainZ := gains.2, gainValid := true, phase := .enabled }

/-! ## Reset -/

/-- The reset input (R190): the MAG state as after reset with the gains unspecified, any operation in progress abandoned
without a response, the command port idle, the history empty. The sensors are not touched (R191). -/
def State.resetInput (s : State) : State := { s.unbindMag with commandPort := .idle, history := [] }

end Sys2Proof.Machine
end

