-- ==== Sys2Proof/Machine/Accelerometer.lean ====
section
/-! DEFINITION. The four accelerometer operations (41_accelerometer.md, R110 to R113). Unit ACC holds no state (R16):
their whole effect is the event history and the response. -/

namespace Sys2Proof.Machine

open Host (Outcome)

/-- `ACC_SETTLE` in milliseconds (R5, R200). -/
def accSettleMs : Nat := 10

/-- ACC_ENABLE rate, range (R110). -/
def execAccEnable (rate range : Int) (s : State) : Outcome State Fault Refusal :=
  .next <|
    if !accRateValid s.cfg.params rate then s.raise .invalidArgumentRate
    else if !accRangeValid s.cfg.params range then s.raise .invalidArgumentRange
    else
      portWriteU8 .acc s.cfg.params.aCtrl1 (accCtrl1Byte rate) s fun s =>
      portWriteU8 .acc s.cfg.params.aCtrl4 (accCtrl4Byte range) s fun s =>
      portDelay accSettleMs s fun s =>
      s.respondOk .none

/-- ACC_DISABLE (R111). -/
def execAccDisable (s : State) : Outcome State Fault Refusal :=
  .next <|
    portWriteU8 .acc s.cfg.params.aCtrl1 s.cfg.params.accCtrl1Disable s fun s =>
    s.respondOk .none

/-- ACC_READ (R112): six sample bytes, then the range register. -/
def execAccRead (s : State) : Outcome State Fault Refusal :=
  .next <|
    portReadU8 .acc s.cfg.params.aOutXL s fun xl s =>
    portReadI8 .acc s.cfg.params.aOutXH s fun xh s =>
    portReadU8 .acc s.cfg.params.aOutYL s fun yl s =>
    portReadI8 .acc s.cfg.params.aOutYH s fun yh s =>
    portReadU8 .acc s.cfg.params.aOutZL s fun zl s =>
    portReadI8 .acc s.cfg.params.aOutZH s fun zh s =>
    portReadU8 .acc s.cfg.params.aCtrl4 s fun b s =>
    match accGain s.cfg.params (accRangeField b) with
    | some g =>
      s.respondOk
        (.three (accScale (accAssemble xh xl) g) (accScale (accAssemble yh yl) g) (accScale (accAssemble zh zl) g))
    | none => s.respondFree

/-- ACC_RDRANGE (R113). -/
def execAccRdrange (s : State) : Outcome State Fault Refusal :=
  .next <|
    portReadU8 .acc s.cfg.params.aCtrl4 s fun b s =>
    s.respondOk (.one ((accRangeField b).setWidth 64))

end Sys2Proof.Machine
end

