-- ==== Sys2Proof/Machine/Magnetometer.lean ====
section
/-! DEFINITION. The five magnetometer operations (42_magnetometer.md, R130 to R134), over the MAG state of R11 to R13. -/

namespace Sys2Proof.Machine

open Host (Outcome)

/-- The phase check of the four operations other than MAG_INIT: NOT_CONSTRUCTED before anything else while the unit is
`UNBOUND` (R163, R167). -/
def constructed (s : State) (k : State → State) : State :=
  if s.phase = .unbound then s.raise .notConstructed else k s

/-- MAG_INIT (R130). -/
def execMagInit (s : State) : Outcome State Fault Refusal :=
  .next <|
    portReadU24be .mag s.cfg.params.mId s.unbindMag fun id s =>
    if magIdMatches id then (s.setPhase .disabled).respondOk .none else s.raise .unrecognizedDevice

/-- MAG_ENABLE rate, range (R131): the gains are committed after all three writes. -/
def execMagEnable (rate range : Int) (s : State) : Outcome State Fault Refusal :=
  .next <|
    constructed s fun s =>
    if !magRateValid rate then s.raise .invalidArgumentRate
    else
      match magRangeKey range with
      | none => s.raise .invalidArgumentRange
      | some key =>
        portWriteU8 .mag s.cfg.params.mCra (magCraByte rate) s fun s =>
        portWriteU8 .mag s.cfg.params.mCrb (magCrbByte range) s fun s =>
        portWriteU8 .mag s.cfg.params.mMode s.cfg.params.magModeContinuous s fun s =>
        (s.commitGains (magGainLut key)).respondOk .none

/-- MAG_DISABLE (R132): the gains and `MAG.GAIN_VALID` are kept. -/
def execMagDisable (s : State) : Outcome State Fault Refusal :=
  .next <|
    constructed s fun s =>
    portWriteU8 .mag s.cfg.params.mMode s.cfg.params.magModeSleep s fun s =>
    (s.setPhase .disabled).respondOk .none

/-- MAG_READ (R133): reads X, Y, Z; the outputs are free unless the unit is `ENABLED`. -/
def execMagRead (s : State) : Outcome State Fault Refusal :=
  .next <|
    constructed s fun s =>
    portReadI16be .mag s.cfg.params.mOutX s fun rx s =>
    portReadI16be .mag s.cfg.params.mOutY s fun ry s =>
    portReadI16be .mag s.cfg.params.mOutZ s fun rz s =>
    if s.phase = .enabled then
      s.respondOk (.three (magConvert rx s.gainXy) (magConvert ry s.gainXy) (magConvert rz s.gainZ))
    else s.respondFree

/-- MAG_RDRAW flag (R134): reads X, Z, Y and answers in that order, unscaled. -/
def execMagRdraw (rawFlag : Bool) (s : State) : Outcome State Fault Refusal :=
  .next <|
    constructed s fun s =>
    if !rawFlag then s.raise .invalidArgumentRaw
    else
      portReadI16be .mag s.cfg.params.mOutX s fun rx s =>
      portReadI16be .mag s.cfg.params.mOutZ s fun rz s =>
      portReadI16be .mag s.cfg.params.mOutY s fun ry s =>
      s.respondOk (.three (BitVec.ofInt 64 rx) (BitVec.ofInt 64 rz) (BitVec.ofInt 64 ry))

end Sys2Proof.Machine
end

