-- ==== Sys2Proof/Machine/Dispatch.lean ====
section
/-! DEFINITION. One arm per operation of R63, each a call of its meaning. -/

namespace Sys2Proof.Machine

def exec (i : Instr) (s : State) : Host.Outcome State Fault Refusal :=
  match i with
  | .accEnable rate range => Sys2Proof.Machine.execAccEnable rate range s
  | .accDisable => Sys2Proof.Machine.execAccDisable s
  | .accRead => Sys2Proof.Machine.execAccRead s
  | .accRdrange => Sys2Proof.Machine.execAccRdrange s
  | .magInit => Sys2Proof.Machine.execMagInit s
  | .magEnable rate range => Sys2Proof.Machine.execMagEnable rate range s
  | .magDisable => Sys2Proof.Machine.execMagDisable s
  | .magRead => Sys2Proof.Machine.execMagRead s
  | .magRdraw rawFlag => Sys2Proof.Machine.execMagRdraw rawFlag s

end Sys2Proof.Machine
end

