-- ==== Sys2Proof/Machine/Sequencer.lean ====
section
/-! DEFINITION. The command port between operations: accepting a command word, the answer to an illegal one, the reset
input (R65, R72, R190, R208). SCP has no program counter and fetches nothing (R14): the host presents the words. -/

namespace Sys2Proof.Machine

/-- What SCP does next: nothing but the state change given, or run an accepted command word from the state given. -/
inductive Turn where
  | stay (s : State)
  | run (cw : CommandWord) (s : State)

/-- The host's input is taken off the list of those to come. -/
def State.takeInput (s : State) : State := { s with hostInputs := s.hostInputs.tail }

/-- A command word is accepted: SCP is busy from here until it delivers the response (R72). -/
def State.accept (s : State) : State := { s.takeInput with commandPort := .busy }

/-- The next reset is taken off the list of inputs; a command word before it goes on waiting. -/
def State.takeReset (s : State) : State := { s with hostInputs := s.hostInputs.erase .reset }

/-- The next turn: a reset input is obeyed at once (R190); a command word is accepted when SCP is idle and stays
unaccepted while it is busy, which does not hold up a reset (R72, R172, log 7); with no input SCP does nothing
(R208, R209). -/
def State.turn (s : State) : Turn :=
  match s.hostInputs with
  | [] => .stay s
  | .reset :: _ => .stay s.takeReset.resetInput
  | .command cw :: rest =>
    match s.commandPort with
    | .idle => .run cw s.accept
    | .busy => if .reset ∈ rest then .stay s.takeReset.resetInput else .stay s

/-- The answer to an illegal command word: ILLEGAL_COMMAND, no port call, no delay, no change of the MAG state
(R65, R164). -/
def illegalCommand (s : State) : State := s.raise .illegalCommand

/-- A command word put where the next turn takes it: the host's next input, at an idle command port. -/
def State.present (s : State) (cw : CommandWord) : State :=
  { s with hostInputs := .command cw :: s.hostInputs, commandPort := .idle }

end Sys2Proof.Machine
end

