-- ==== Sys2Proof/Machine/Step.lean ====
section
/-! DEFINITION. One step of SCP: one input of the host, and a whole operation if it is a command word (R46, R72). -/

namespace Sys2Proof.Machine

/-- One step: the command port's turn; an accepted word is decoded and run, or answered ILLEGAL_COMMAND (R65, R71). -/
def step (s : State) : Host.Outcome State Fault Refusal :=
  match s.turn with
  | .stay s' => .next s'
  | .run cw s' =>
    match decodeWord cw with
    | .ok i => exec i s'
    | .error _ => .next (illegalCommand s')

/-- `s` with a command word as what the next step runs (log 8): SCP fetches from no memory, so the word is the host's
next input, and the command port is idle. -/
def State.withFetchWord (s : State) (nbits w : Nat) : State := s.present (BitVec.ofNat 32 (w % 2 ^ nbits))

end Sys2Proof.Machine
end

