-- ==== Sys2Proof/WellFormed.lean ====
section
/-! DEFINITION. Which instructions a command word can carry: an operand is the value of an 8-bit two's-complement field
(R61), so it lies in -128..127. Whether an operand is VALID for its sensor is no matter of form: the operation checks
it (R71). -/

namespace Sys2Proof

/-- An operand of R61: an integer an 8-bit two's-complement field holds. -/
def operandFits (n : Int) : Bool := decide (-128 ≤ n) && decide (n ≤ 127)

/-- The well-formed instructions: each operand fits its field of the command word (R61). -/
def Instr.wellFormed : Instr → Bool
  | .accEnable rate range => operandFits rate && operandFits range
  | .accDisable => true
  | .accRead => true
  | .accRdrange => true
  | .magInit => true
  | .magEnable rate range => operandFits rate && operandFits range
  | .magDisable => true
  | .magRead => true
  | .magRdraw _ => true

end Sys2Proof
end

