-- ==== Sys2Proof/Safety.lean ====
section
/-! DEFINITION. The words claims are stated in: the invariant of the MAG state (R15), the access table of R51, which
operations reach their first access (R167), and the MAG state after each way an operation can end (R179). Nothing here
is used by the machine. -/

namespace Sys2Proof.Machine

/-! ## The MAG state -/

/-- The invariants of R15: (i) enabled implies valid gains, (ii) valid gains are one of the seven pairs of the table,
(iii) unbound implies no valid gains, (iv) the phase is never 3. -/
def State.MagInv (s : State) : Prop :=
  (s.phase = .enabled → s.gainValid = true) ∧
  (s.gainValid = true → (s.gainXy, s.gainZ) ∈ magGainTable.toList) ∧
  (s.phase = .unbound → s.gainValid = false) ∧
  s.phase.code ≠ 3#2

/-- The four MAG state elements, as one value. -/
structure MagState where
  phase : Phase
  gainValid : Bool
  gainXy : BitVec 11
  gainZ : BitVec 11
  deriving DecidableEq, Repr

/-- The MAG state of a state. -/
def State.mag (s : State) : MagState := ⟨s.phase, s.gainValid, s.gainXy, s.gainZ⟩

/-- A state with another MAG state. -/
def State.withMag (s : State) (m : MagState) : State :=
  { s with phase := m.phase, gainValid := m.gainValid, gainXy := m.gainXy, gainZ := m.gainZ }

/-- The table of R179: how the MAG state of `t` stands to that of `s` when the operation has ended with a status.
`False` stands for the table's n/a, and for a status the operation never gives. -/
def MagAfter (i : Instr) (st : Status) (s t : State) : Prop :=
  match i, st with
  | .magInit, .ok => t.phase = .disabled ∧ t.gainValid = false
  | .magInit, .unrecognizedDevice => t.phase = .unbound ∧ t.gainValid = false
  | .magInit, .transportError => t.phase = .unbound ∧ t.gainValid = false
  | .magEnable _ range, .ok =>
    t.phase = .enabled ∧ t.gainValid = true ∧
      ∃ h : (range - 1).toNat < 7, 1 ≤ range ∧ (t.gainXy, t.gainZ) = magGainTable[(range - 1).toNat]
  | .magEnable _ _, .invalidArgumentRate => t.mag = s.mag
  | .magEnable _ _, .invalidArgumentRange => t.mag = s.mag
  | .magEnable _ _, .notConstructed => t.mag = s.mag
  | .magEnable _ _, .transportError => t.mag = s.mag
  | .magDisable, .ok => t.mag = { s.mag with phase := .disabled }
  | .magDisable, .notConstructed => t.mag = s.mag
  | .magDisable, .transportError => t.mag = s.mag
  | .magRead, .ok => t.mag = s.mag
  | .magRead, .notConstructed => t.mag = s.mag
  | .magRead, .transportError => t.mag = s.mag
  | .magRdraw _, .ok => t.mag = s.mag
  | .magRdraw _, .invalidArgumentRaw => t.mag = s.mag
  | .magRdraw _, .notConstructed => t.mag = s.mag
  | .magRdraw _, .transportError => t.mag = s.mag
  | .accEnable _ _, .ok => t.mag = s.mag
  | .accEnable _ _, .invalidArgumentRate => t.mag = s.mag
  | .accEnable _ _, .invalidArgumentRange => t.mag = s.mag
  | .accEnable _ _, .transportError => t.mag = s.mag
  | .accDisable, .ok => t.mag = s.mag
  | .accDisable, .transportError => t.mag = s.mag
  | .accRead, .ok => t.mag = s.mag
  | .accRead, .transportError => t.mag = s.mag
  | .accRdrange, .ok => t.mag = s.mag
  | .accRdrange, .transportError => t.mag = s.mag
  | _, _ => False

/-! ## The access table of R51 -/

/-- One access of an operation to its sensor. -/
inductive Access where
  | writeU8 (addr v : Byte)
  | readU8 (addr : Byte)
  | readI8 (addr : Byte)
  | readI16be (addr : Byte)
  | readU24be (addr : Byte)
  deriving DecidableEq, Repr

/-- The result an answer of the port gives a call with the given reading of the bytes. -/
def CallResult.ofReply {α : Type} (value : Byte → Byte → Byte → α) : PortReply → CallResult α
  | .completes b0 b1 b2 => .value (value b0 b1 b2)
  | .fails e => .err e
  | .stalls => .noAnswer

/-- The event an access leaves in the history when the port answers so (R45). -/
def Access.event (u : SensorUnit) (r : PortReply) : Access → Event
  | .writeU8 addr v => .w8 u addr v (.ofReply (fun _ _ _ => ()) r)
  | .readU8 addr => .r8u u addr (.ofReply valueU8 r)
  | .readI8 addr => .r8s u addr (.ofReply valueI8 r)
  | .readI16be addr => .r16be u addr (.ofReply valueI16be r)
  | .readU24be addr => .r24be u addr (.ofReply valueU24be r)

/-- The port completes its next `n` calls. -/
def State.completesFirst (s : State) (n : Nat) : Prop :=
  ∀ j, j < n → ∃ b0 b1 b2, s.portReply j = .completes b0 b1 b2

/-- The sensor an event is addressed to; none for a delay. -/
def Event.unit? : Event → Option SensorUnit
  | .w8 u _ _ _ => some u
  | .r8u u _ _ => some u
  | .r8s u _ _ => some u
  | .r16be u _ _ => some u
  | .r24be u _ _ => some u
  | .delay _ => none

/-- The event is a delay. -/
def Event.isDelay (e : Event) : Bool := e.unit?.isNone

end Sys2Proof.Machine

namespace Sys2Proof

open Machine

/-- The unit an operation belongs to (R2, R63). -/
def Instr.unit : Instr → SensorUnit
  | .accEnable _ _ => .acc
  | .accDisable => .acc
  | .accRead => .acc
  | .accRdrange => .acc
  | .magInit => .mag
  | .magEnable _ _ => .mag
  | .magDisable => .mag
  | .magRead => .mag
  | .magRdraw _ => .mag

/-- The accesses of an operation in issue order (R51), less the delay of ACC_ENABLE. -/
def Instr.accesses (p : Params) : Instr → List Access
  | .accEnable rate range => [.writeU8 p.aCtrl1 (accCtrl1Byte rate), .writeU8 p.aCtrl4 (accCtrl4Byte range)]
  | .accDisable => [.writeU8 p.aCtrl1 p.accCtrl1Disable]
  | .accRead =>
    [ .readU8 p.aOutXL, .readI8 p.aOutXH, .readU8 p.aOutYL, .readI8 p.aOutYH, .readU8 p.aOutZL, .readI8 p.aOutZH,
      .readU8 p.aCtrl4 ]
  | .accRdrange => [.readU8 p.aCtrl4]
  | .magInit => [.readU24be p.mId]
  | .magEnable rate range =>
    [.writeU8 p.mCra (magCraByte rate), .writeU8 p.mCrb (magCrbByte range), .writeU8 p.mMode p.magModeContinuous]
  | .magDisable => [.writeU8 p.mMode p.magModeSleep]
  | .magRead => [.readI16be p.mOutX, .readI16be p.mOutY, .readI16be p.mOutZ]
  | .magRdraw _ => [.readI16be p.mOutX, .readI16be p.mOutZ, .readI16be p.mOutY]

/-- The delay that follows the accesses: ACC_ENABLE's alone (R47, R200). -/
def Instr.delayEvents : Instr → List Event
  | .accEnable _ _ => [.delay 10]
  | _ => []

/-- The events of the first `n` accesses of an operation, answered by the port's coming answers. -/
def Instr.events (i : Instr) (s : State) (n : Nat) : List Event :=
  List.zipWith (fun (a : Access) j => a.event i.unit (s.portReply j)) ((i.accesses s.cfg.params).take n) (List.range n)

/-- The operation passes every check that precedes its first access (R167, steps 2 to 5). -/
def Instr.admitted (i : Instr) (s : State) : Prop :=
  match i with
  | .accEnable rate range => accRateValid s.cfg.params rate = true ∧ accRangeValid s.cfg.params range = true
  | .accDisable => True
  | .accRead => True
  | .accRdrange => True
  | .magInit => True
  | .magEnable rate range => s.phase ≠ .unbound ∧ magRateValid rate = true ∧ magRangeValid range = true
  | .magDisable => s.phase ≠ .unbound
  | .magRead => s.phase ≠ .unbound
  | .magRdraw rawFlag => s.phase ≠ .unbound ∧ rawFlag = true

end Sys2Proof
end

