-- ==== Sys2Proof/Certificates/Slice0/Obligations.lean ====
section
/-! DEFINITION. The statements about SCP. Those about an operation say the whole next state, so what is not named in it
is unchanged: that is the operation's frame. A port answer is written `s.portReply j`: the `j`-th to come, whether it
stands in the state or is a free one. A docstring says so where the spec marks the rule as its own derivation. -/

open Sys2Proof Sys2Proof.Machine

/-! ## Command words -/

/-- R60, R61, R69: no bit of an encoding is dropped. -/
def Obligations.DecodeOfEncodeGivesTheInstruction : Prop :=
  ∀ i : Instr, i.wellFormed = true → decodeWord (encode i) = .ok i

/-- R60, R63, R69: a legal word is the encoding of what it decodes to, so it has one reading. -/
def Obligations.EncodeOfDecodeGivesTheWord : Prop :=
  ∀ (cw : CommandWord) (i : Instr), decodeWord cw = .ok i → i.wellFormed = true ∧ encode i = cw

/-- R71: exactly one row, with the operands of R61 whatever their values, or illegal. The spec derives that the row is the
only one from "the nine `match` values differ in `CW[31:24]`, which every mask covers". -/
def Obligations.EveryWordSelectsExactlyOneRowOrIsIllegal : Prop :=
  ∀ cw : CommandWord,
    (∃ r ∈ opcodeTable, r.selects cw = true ∧ (∀ r' ∈ opcodeTable, r'.selects cw = true → r' = r) ∧
      decodeWord cw = .ok (r.build (cw.extractLsb' 8 8).toInt (cw.extractLsb' 0 8).toInt (cw.getLsbD 16))) ∨
    ((∀ r ∈ opcodeTable, r.selects cw = false) ∧ ∃ e, decodeWord cw = .error e)

/-- R66: a nonzero reserved bit, a raw flag outside MAG_RDRAW, an operand outside the enables. -/
def Obligations.ReservedBitsMakeAWordIllegal : Prop :=
  ∀ cw : CommandWord,
    (cw.extractLsb' 17 7 ≠ 0#7 → ∃ e, decodeWord cw = .error e) ∧
    (cw.getLsbD 16 = true → cw.extractLsb' 24 8 ≠ 0x24#8 → ∃ e, decodeWord cw = .error e) ∧
    (cw.extractLsb' 0 16 ≠ 0#16 → cw.extractLsb' 24 8 ≠ 0x10#8 → cw.extractLsb' 24 8 ≠ 0x21#8 →
      ∃ e, decodeWord cw = .error e)

/-- One word of each row of the opcode map, and words that match none (95_test_vectors.md 2.6). The spec calls the last
two illegal and no more: the names of their rejections are the model's (log 16). -/
def Obligations.SpecWordsDecodeAsTheSpecSays : Prop :=
  decodeWord 0x10000500#32 = .ok (.accEnable 5 0) ∧
  decodeWord 0x1000FF00#32 = .ok (.accEnable (-1) 0) ∧
  decodeWord 0x11000000#32 = .ok .accDisable ∧
  decodeWord 0x12000000#32 = .ok .accRead ∧
  decodeWord 0x13000000#32 = .ok .accRdrange ∧
  decodeWord 0x20000000#32 = .ok .magInit ∧
  decodeWord 0x210000FF#32 = .ok (.magEnable 0 (-1)) ∧
  decodeWord 0x22000000#32 = .ok .magDisable ∧
  decodeWord 0x23000000#32 = .ok .magRead ∧
  decodeWord 0x24010000#32 = .ok (.magRdraw true) ∧
  decodeWord 0x24000000#32 = .ok (.magRdraw false) ∧
  decodeWord 0x14000000#32 = .error .unassignedOpcode ∧
  decodeWord 0x21010001#32 = .error .reservedBits

/-! ## Steps, reset, invariants -/

/-- R71, R72: an accepted word is decoded and run; the step takes it off the host's inputs and makes the port busy. That
one step is one operation, and the list of host inputs, are the model's (log 6, 7). -/
def Obligations.StepRunsTheDecodedInstruction : Prop :=
  ∀ (s : State) (cw : CommandWord) (rest : List HostInput) (i : Instr),
    s.hostInputs = .command cw :: rest → s.commandPort = .idle → decodeWord cw = .ok i →
    step s = exec i { s with hostInputs := rest, commandPort := .busy }

/-- R65, R164: an illegal word is answered ILLEGAL_COMMAND, code 0x07, and nothing else happens. -/
def Obligations.IllegalCommandIsAnsweredAndChangesNothing : Prop :=
  Status.illegalCommand.code = 0x07#8 ∧
  ∀ (s : State) (cw : CommandWord) (rest : List HostInput),
    s.hostInputs = .command cw :: rest → s.commandPort = .idle →
    (∀ r ∈ opcodeTable, cw &&& r.mask ≠ r.mtch) →
    step s = .next { s with hostInputs := rest, responses := s.responses ++ [⟨.illegalCommand, none, .none⟩] }

/-- R72, R172, R208: a busy port takes no command, and with no input SCP does nothing. That a command presented to a
busy port waits there, until a reset if one comes, is the model's choice (log 7). -/
def Obligations.BusyOrUnaskedMachineStaysAsItIs : Prop :=
  ∀ s : State,
    (s.hostInputs = [] → step s = .next s) ∧
    (∀ cw rest, s.hostInputs = .command cw :: rest → s.commandPort = .busy → .reset ∉ rest → step s = .next s)

/-- R190, R191: the reset input, also behind a command word that waits at a busy port (log 7). That the delivered
responses are kept is the model's choice (log 9); the unspecified gains are free values (log 10). -/
def Obligations.ResetInputLeavesTheResetMagState : Prop :=
  ∀ (s : State) (rest : List HostInput),
    (s.hostInputs = .reset :: rest ∨
      s.commandPort = .busy ∧ .reset ∈ rest ∧ ∃ cw, s.hostInputs = .command cw :: rest) →
    step s = .next
      { s with
        hostInputs := s.hostInputs.erase .reset
        phase := .unbound
        gainValid := false
        gainXy := Config.freeGain s.draws
        gainZ := Config.freeGain (s.draws + 1)
        draws := s.draws + 2
        commandPort := .idle
        history := [] }

/-- R25: the reset values the spec gives; R12, R160: the numbers of all three phases and all eight statuses. -/
def Obligations.ResetStateHasTheSpecsValues : Prop :=
  State.reset.phase = .unbound ∧ State.reset.phase.code = 0#2 ∧ State.reset.gainValid = false ∧
    State.reset.commandPort = .idle ∧ State.reset.history = [] ∧
  (∀ p : Phase, p.code =
    match p with
    | .unbound => 0#2
    | .disabled => 1#2
    | .enabled => 2#2) ∧
  ∀ st : Status, st.code =
    match st with
    | .ok => 0x00#8
    | .invalidArgumentRate => 0x01#8
    | .invalidArgumentRange => 0x02#8
    | .invalidArgumentRaw => 0x03#8
    | .unrecognizedDevice => 0x04#8
    | .transportError => 0x05#8
    | .notConstructed => 0x06#8
    | .illegalCommand => 0x07#8

/-- R15, which the spec derives from R11 to R13 and R130 to R132: every operation preserves the invariants,
reset, as a state and as an input, establishes them, and valid gains are nonzero. -/
def Obligations.OperationsPreserveAndResetEstablishTheMagInvariants : Prop :=
  State.reset.MagInv ∧
  (∀ s rest t, s.hostInputs = .reset :: rest → step s = .next t → t.MagInv) ∧
  (∀ (i : Instr) (s t : State), s.MagInv → exec i s = .next t → t.MagInv) ∧
  ∀ s : State, s.MagInv → s.gainValid = true → s.gainXy ≠ 0#11 ∧ s.gainZ ≠ 0#11

/-- R15, the spec's own derivation, over whole steps: operations, illegal commands and the reset input. -/
def Obligations.EveryStepKeepsTheMagInvariants : Prop :=
  ∀ s t : State, s.MagInv → step s = .next t → t.MagInv

/-- R15, the spec's own derivation, at reset. -/
def Obligations.ResetMeetsTheMagInvariants : Prop := State.reset.MagInv

/-- R65, R71, R172: no step stops; a hang is a next state of the model (log 5, 20). -/
def Obligations.EveryStepAnswersANextState : Prop := ∀ s : State, ∃ t, step s = .next t

/-- R44, R5: no operand and no step changes a parameter of the block. -/
def Obligations.NoStepChangesTheParameters : Prop := ∀ s t : State, step s = .next t → t.cfg = s.cfg

/-! ## Datapath: integers -/

/-- R33, R34, R35. That an answer carries three bytes is the model's choice (log 3). -/
def Obligations.PortReadsExtendAndOrderTheirBytes : Prop :=
  ∀ b0 b1 b2 : Byte,
    valueU8 b0 b1 b2 = b0.toNat ∧ valueI8 b0 b1 b2 = (if b0.toNat < 128 then (b0.toNat : Int) else b0.toNat - 256) ∧
    valueI16be b0 b1 b2 =
      (if 256 * b0.toNat + b1.toNat < 32768 then (256 * b0.toNat + b1.toNat : Int)
        else 256 * b0.toNat + b1.toNat - 65536) ∧
    valueU24be b0 b1 b2 = 65536 * b0.toNat + 256 * b1.toNat + b2.toNat

/-- R82: the sample, and its reading as the 12-bit two's-complement value of the high byte and the top nibble of the low
byte, which the spec derives from R81. -/
def Obligations.SampleAssemblyIsTwelveBitSignExtension : Prop :=
  ∀ hb lb : Byte,
    accAssemble hb.toInt lb.toNat = 16 * hb.toInt + lb.toNat / 16 ∧
    accAssemble hb.toInt lb.toNat = (hb ++ lb.extractLsb' 4 4).toInt ∧
    -2048 ≤ accAssemble hb.toInt lb.toNat ∧ accAssemble hb.toInt lb.toNat ≤ 2047 ∧
    (accAssemble hb.toInt lb.toNat < 0 ↔ hb.msb = true)

/-- R83. -/
def Obligations.LowNibbleDoesNotReachTheSample : Prop :=
  ∀ hb lb lb' : Byte, lb.extractLsb' 4 4 = lb'.extractLsb' 4 4 →
    accAssemble hb.toInt lb.toNat = accAssemble hb.toInt lb'.toNat

/-- R84: bits 5 and 4, read unsigned or signed. That no other bit counts is the spec's derivation from "returns the 2-bit
range field". -/
def Obligations.RangeFieldIsBitsFiveAndFour : Prop :=
  ∀ b : Byte, accRangeField b.toNat = b.extractLsb' 4 2 ∧ accRangeField b.toInt = b.extractLsb' 4 2

/-- R85: three codes have a gain, the fourth value has none. The bit patterns are the spec's derivation from R92. -/
def Obligations.GainMultiplexerLeavesOneFieldValueUndefined : Prop :=
  ∀ c : Config,
    accGain c.params 0#2 = some 0x3FF0000000000000#64 ∧
    accGain c.params c.params.accRange4G = some 0x4000000000000000#64 ∧
    accGain c.params c.params.accRange8G = some 0x400F333333333333#64 ∧
    ∃ f, accGain c.params f = none ∧ ∀ f', accGain c.params f' = none → f' = f

/-- R88: the seven pairs, and no entry for any other code. The spec derives that entry `k` belongs to range code `k`. -/
def Obligations.GainTableIsKeyedByRangesOneToSeven : Prop :=
  (magRangeKey 1).map magGainLut = some (1055#11, 950#11) ∧
  (magRangeKey 2).map magGainLut = some (795#11, 710#11) ∧
  (magRangeKey 3).map magGainLut = some (635#11, 570#11) ∧
  (magRangeKey 4).map magGainLut = some (430#11, 385#11) ∧
  (magRangeKey 5).map magGainLut = some (375#11, 335#11) ∧
  (magRangeKey 6).map magGainLut = some (320#11, 285#11) ∧
  (magRangeKey 7).map magGainLut = some (230#11, 205#11) ∧
  ∀ range : Int, range < 1 ∨ 7 < range → magRangeKey range = none

/-- R89: one value fires the detector, and it is the pattern 0xF000. -/
def Obligations.SaturationDetectorFiresOnExactlyOnePattern : Prop :=
  (∀ raw : Int, magSat raw = true ↔ raw = -4096) ∧
  ∀ b0 b1 b2 : Byte, magSat (valueI16be b0 b1 b2) = true ↔ b0 ++ b1 = 0xF000#16

/-! ## Datapath: numbers -/

/-- R90. -/
def Obligations.IntegersUpToSixteenBitsConvertExactly : Prop :=
  i2f 0 = 0x0000000000000000#64 ∧
  ∀ n : Int, n.natAbs ≤ 32768 →
    floatFinite (i2f n) = true ∧ floatUnits (i2f n) = n.natAbs * unitsPerOne ∧ floatNeg (i2f n) = decide (n < 0)

/-- R91: no finite FLOAT is nearer to the exact product than the result, and of two equally near the even one is
taken. Distances are in units of 2 ^ -1074 times `unitsPerOne`. R91 says that subnormal operands and
results are not exercised and states no sign of a zero: that subnormals follow this too, and the sign of a zero product, are
the model's presumption from IEEE 754 (log 12). -/
def Obligations.ProductIsRoundedToNearestEven : Prop :=
  ∀ a b y : Float64, floatFinite a = true → floatFinite b = true → floatFinite (fmul a b) = true →
    floatFinite y = true →
    floatNeg (fmul a b) = (floatNeg a != floatNeg b) ∧
    ((floatUnits (fmul a b) * unitsPerOne : Int) - floatUnits a * floatUnits b).natAbs ≤
      ((floatUnits y * unitsPerOne : Int) - floatUnits a * floatUnits b).natAbs ∧
    (((floatUnits (fmul a b) * unitsPerOne : Int) - floatUnits a * floatUnits b).natAbs =
        ((floatUnits y * unitsPerOne : Int) - floatUnits a * floatUnits b).natAbs →
      floatUnits y ≠ floatUnits (fmul a b) → floatFrac (fmul a b) % 2 = 0)

/-- R91: the same of the quotient by a nonzero divisor, distances scaled by the divisor. That subnormals follow it too, and the
sign of a zero quotient, are the model's presumption from IEEE 754 (log 12). -/
def Obligations.QuotientIsRoundedToNearestEven : Prop :=
  ∀ a b y : Float64, floatFinite a = true → floatFinite b = true → floatUnits b ≠ 0 →
    floatFinite (fdiv a b) = true → floatFinite y = true →
    floatNeg (fdiv a b) = (floatNeg a != floatNeg b) ∧
    ((floatUnits (fdiv a b) * floatUnits b : Int) - floatUnits a * unitsPerOne).natAbs ≤
      ((floatUnits y * floatUnits b : Int) - floatUnits a * unitsPerOne).natAbs ∧
    (((floatUnits (fdiv a b) * floatUnits b : Int) - floatUnits a * unitsPerOne).natAbs =
        ((floatUnits y * floatUnits b : Int) - floatUnits a * unitsPerOne).natAbs →
      floatUnits y ≠ floatUnits (fdiv a b) → floatFrac (fdiv a b) % 2 = 0)

/-- R92, bit patterns the spec computed: each literal is the FLOAT nearest to its decimal, and the unit constant has the
bits the spec gives. -/
def Obligations.ConstantsAreTheNearestFloats : Prop :=
  float9p80665 = 0x40239D013A92A305#64 ∧ float9p80665 = floatPack false (roundUnits (980665 * unitsPerOne) 100000) ∧
  float1000 = 0x408F400000000000#64 ∧ float1000 = floatPack false (roundUnits (1000 * unitsPerOne) 1) ∧
  float100 = 0x4059000000000000#64 ∧ float100 = floatPack false (roundUnits (100 * unitsPerOne) 1) ∧
  float1 = 0x3FF0000000000000#64 ∧ float1 = floatPack false (roundUnits unitsPerOne 1) ∧
  float2 = 0x4000000000000000#64 ∧ float2 = floatPack false (roundUnits (2 * unitsPerOne) 1) ∧
  float3p9 = 0x400F333333333333#64 ∧ float3p9 = floatPack false (roundUnits (39 * unitsPerOne) 10) ∧
  accUnit = fdiv float9p80665 float1000 ∧ accUnit = 0x3F84158248443C70#64

/-- R86: what the spec says of every accelerometer output: zero is +0.0, the others are odd in the sample, all finite. -/
def Obligations.AccelerometerScalingIsFiniteAndOdd : Prop :=
  ∀ (raw : Int) (g : Float64), -2048 ≤ raw → raw ≤ 2047 → g ∈ [float1, float2, float3p9] →
    accScale 0 g = 0#64 ∧ floatFinite (accScale raw g) = true ∧
    (raw ≠ 0 → accScale (-raw) g = accScale raw g ^^^ 0x8000000000000000#64)

/-- R93: the exact rational `100 raw / g`, rounded once, which the spec derives from R90 and R91. -/
def Obligations.MagnetometerScalingRoundsTheExactQuotientOnce : Prop :=
  ∀ (raw : Int) (g : BitVec 11), -32768 ≤ raw → raw ≤ 32767 → g ≠ 0#11 →
    magScale raw g = floatPack (decide (raw < 0)) (roundUnits (100 * raw.natAbs * unitsPerOne) g.toNat) ∧
    floatFinite (magScale raw g) = true

/-- R94: an output is +INF exactly for the saturated sample, so +INF tells the host that the axis read -4096
(derived by the spec from R89 and R93). -/
def Obligations.OutputIsPlusInfinityExactlyWhenSaturated : Prop :=
  plusInf = 0x7FF0000000000000#64 ∧
  ∀ (raw : Int) (g : BitVec 11), -32768 ≤ raw → raw ≤ 32767 → g ≠ 0#11 →
    (magConvert raw g = plusInf ↔ raw = -4096) ∧ (raw ≠ -4096 → magConvert raw g = magScale raw g)

/-! ## Accelerometer operations -/

/-- R110: both operands valid, both writes completed, the settle delay expired. The written bytes are below 256. -/
def Obligations.AccEnableWritesBothRegistersAndSettles : Prop :=
  ∀ (s : State) (rate range : Int) (a0 a1 a2 b0 b1 b2 : Byte),
    (∃ c ∈ s.cfg.params.accRateSet, (c.toNat : Int) = rate) →
    (range = 0 ∨ range = s.cfg.params.accRange4G.toNat ∨ range = s.cfg.params.accRange8G.toNat) →
    s.portReply 0 = .completes a0 a1 a2 → s.portReply 1 = .completes b0 b1 b2 → s.timerReply = .expires →
    (0 ≤ 8 * rate + 7 ∧ 8 * rate + 7 ≤ 255 ∧ 0 ≤ 16 * range ∧ 16 * range ≤ 48) ∧
    exec (.accEnable rate range) s = .next
      { s with
        replies := s.replies.drop 2
        calls := s.calls + 2
        timerReplies := s.timerReplies.tail
        delays := s.delays + 1
        history := s.history ++
          [ .w8 .acc s.cfg.params.aCtrl1 (BitVec.ofInt 8 (8 * rate + 7)) (.value ()),
            .w8 .acc s.cfg.params.aCtrl4 (BitVec.ofInt 8 (16 * range)) (.value ()), .delay 10 ]
        responses := s.responses ++ [⟨.ok, none, .none⟩]
        commandPort := .idle }

/-- R110, R161, R167: the rate is named first; no call, no delay, no change. -/
def Obligations.AccEnableRefusesInvalidOperands : Prop :=
  ∀ (s : State) (rate range : Int),
    ((∀ c ∈ s.cfg.params.accRateSet, (c.toNat : Int) ≠ rate) →
      exec (.accEnable rate range) s = .next
        { s with responses := s.responses ++ [⟨.invalidArgumentRate, none, .none⟩], commandPort := .idle }) ∧
    ((∃ c ∈ s.cfg.params.accRateSet, (c.toNat : Int) = rate) →
      range ≠ 0 → range ≠ s.cfg.params.accRange4G.toNat → range ≠ s.cfg.params.accRange8G.toNat →
      exec (.accEnable rate range) s = .next
        { s with responses := s.responses ++ [⟨.invalidArgumentRange, none, .none⟩], commandPort := .idle })

/-- R172, R200: a settle timer that never expires leaves SCP busy, with both writes done and no response. A hang as a
state, and the event of the delay that does not end, are the model's (log 5). -/
def Obligations.AccEnableHangsIfTheDelayNeverEnds : Prop :=
  ∀ (s : State) (rate range : Int) (a0 a1 a2 b0 b1 b2 : Byte),
    (∃ c ∈ s.cfg.params.accRateSet, (c.toNat : Int) = rate) →
    (range = 0 ∨ range = s.cfg.params.accRange4G.toNat ∨ range = s.cfg.params.accRange8G.toNat) →
    s.portReply 0 = .completes a0 a1 a2 → s.portReply 1 = .completes b0 b1 b2 → s.timerReply = .never →
    exec (.accEnable rate range) s = .next
      { s with
        replies := s.replies.drop 2
        calls := s.calls + 2
        timerReplies := s.timerReplies.tail
        delays := s.delays + 1
        history := s.history ++
          [ .w8 .acc s.cfg.params.aCtrl1 (BitVec.ofInt 8 (8 * rate + 7)) (.value ()),
            .w8 .acc s.cfg.params.aCtrl4 (BitVec.ofInt 8 (16 * range)) (.value ()), .delay 10 ]
        commandPort := .busy }

/-- R111. -/
def Obligations.AccDisableWritesOneByte : Prop :=
  ∀ (s : State) (b0 b1 b2 : Byte), s.portReply 0 = .completes b0 b1 b2 →
    s.cfg.params.accCtrl1Disable.extractLsb' 3 5 = 0#5 ∧
    exec .accDisable s = .next
      { s with
        replies := s.replies.drop 1
        calls := s.calls + 1
        history := s.history ++ [.w8 .acc s.cfg.params.aCtrl1 s.cfg.params.accCtrl1Disable (.value ())]
        responses := s.responses ++ [⟨.ok, none, .none⟩]
        commandPort := .idle }

/-- R112 with a range field that is a range code: seven reads, then three scaled samples. `d j` is the byte the `j`-th
read is answered with. -/
def Obligations.AccReadScalesTheThreeSamples : Prop :=
  ∀ (s : State) (d d1 d2 : Nat → Byte) (g : Float64),
    (∀ j, j < 7 → s.portReply j = .completes (d j) (d1 j) (d2 j)) →
    ((d 6).extractLsb' 4 2 = 0#2 ∧ g = float1 ∨
      (d 6).extractLsb' 4 2 = s.cfg.params.accRange4G ∧ g = float2 ∨
      (d 6).extractLsb' 4 2 = s.cfg.params.accRange8G ∧ g = float3p9) →
    exec .accRead s = .next
      { s with
        replies := s.replies.drop 7
        calls := s.calls + 7
        history := s.history ++
          [ .r8u .acc s.cfg.params.aOutXL (.value (d 0).toNat), .r8s .acc s.cfg.params.aOutXH (.value (d 1).toInt),
            .r8u .acc s.cfg.params.aOutYL (.value (d 2).toNat), .r8s .acc s.cfg.params.aOutYH (.value (d 3).toInt),
            .r8u .acc s.cfg.params.aOutZL (.value (d 4).toNat), .r8s .acc s.cfg.params.aOutZH (.value (d 5).toInt),
            .r8u .acc s.cfg.params.aCtrl4 (.value (d 6).toNat) ]
        responses := s.responses ++
          [⟨.ok, none, .three (fmul (fmul (i2f (16 * (d 1).toInt + (d 0).toNat / 16)) g) accUnit)
            (fmul (fmul (i2f (16 * (d 3).toInt + (d 2).toNat / 16)) g) accUnit)
            (fmul (fmul (i2f (16 * (d 5).toInt + (d 4).toNat / 16)) g) accUnit)⟩]
        commandPort := .idle }

/-- R112 with the one field value that is no range code: the same reads, status OK, three free values (log 11). -/
def Obligations.AccReadGivesFreeValuesWithoutAGain : Prop :=
  ∀ (s : State) (d d1 d2 : Nat → Byte),
    (∀ j, j < 7 → s.portReply j = .completes (d j) (d1 j) (d2 j)) →
    (d 6).extractLsb' 4 2 ≠ 0#2 → (d 6).extractLsb' 4 2 ≠ s.cfg.params.accRange4G →
    (d 6).extractLsb' 4 2 ≠ s.cfg.params.accRange8G →
    exec .accRead s = .next
      { s with
        replies := s.replies.drop 7
        calls := s.calls + 7
        draws := s.draws + 3
        history := s.history ++
          [ .r8u .acc s.cfg.params.aOutXL (.value (d 0).toNat), .r8s .acc s.cfg.params.aOutXH (.value (d 1).toInt),
            .r8u .acc s.cfg.params.aOutYL (.value (d 2).toNat), .r8s .acc s.cfg.params.aOutYH (.value (d 3).toInt),
            .r8u .acc s.cfg.params.aOutZL (.value (d 4).toNat), .r8s .acc s.cfg.params.aOutZH (.value (d 5).toInt),
            .r8u .acc s.cfg.params.aCtrl4 (.value (d 6).toNat) ]
        responses := s.responses ++
          [⟨.ok, none, .three (Config.freeFloat s.draws) (Config.freeFloat (s.draws + 1))
            (Config.freeFloat (s.draws + 2))⟩]
        commandPort := .idle }

/-- R113. -/
def Obligations.AccRdrangeReturnsTheTwoBitField : Prop :=
  ∀ (s : State) (b0 b1 b2 : Byte), s.portReply 0 = .completes b0 b1 b2 →
    exec .accRdrange s = .next
      { s with
        replies := s.replies.drop 1
        calls := s.calls + 1
        history := s.history ++ [.r8u .acc s.cfg.params.aCtrl4 (.value b0.toNat)]
        responses := s.responses ++ [⟨.ok, none, .one ((b0.extractLsb' 4 2).setWidth 64)⟩]
        commandPort := .idle }

/-! ## Magnetometer operations -/

/-- R130 with the module's identity, in every phase: DISABLED, no gains (free values, log 10). -/
def Obligations.MagInitAcceptsTheKnownIdentity : Prop :=
  ∀ s : State, s.portReply 0 = .completes 0x48#8 0x34#8 0x33#8 →
    exec .magInit s = .next
      { s with
        replies := s.replies.drop 1
        calls := s.calls + 1
        phase := .disabled
        gainValid := false
        gainXy := Config.freeGain s.draws
        gainZ := Config.freeGain (s.draws + 1)
        draws := s.draws + 2
        history := s.history ++ [.r24be .mag s.cfg.params.mId (.value 0x483433)]
        responses := s.responses ++ [⟨.ok, none, .none⟩]
        commandPort := .idle }

/-- R130, R162: any other identity: UNRECOGNIZED_DEVICE, and the unit is UNBOUND whatever it was. -/
def Obligations.MagInitRejectsEveryOtherIdentity : Prop :=
  ∀ (s : State) (b0 b1 b2 : Byte), s.portReply 0 = .completes b0 b1 b2 →
    ¬ (b0 = 0x48#8 ∧ b1 = 0x34#8 ∧ b2 = 0x33#8) →
    exec .magInit s = .next
      { s with
        replies := s.replies.drop 1
        calls := s.calls + 1
        phase := .unbound
        gainValid := false
        gainXy := Config.freeGain s.draws
        gainZ := Config.freeGain (s.draws + 1)
        draws := s.draws + 2
        history := s.history ++
          [.r24be .mag s.cfg.params.mId (.value (65536 * b0.toNat + 256 * b1.toNat + b2.toNat))]
        responses := s.responses ++ [⟨.unrecognizedDevice, none, .none⟩]
        commandPort := .idle }

/-- R131: all three writes completed: the gains, GAIN_VALID and PHASE are set together. -/
def Obligations.MagEnableWritesThreeRegistersAndLoadsTheGains : Prop :=
  ∀ (s : State) (rate range : Int) (key : Fin 7) (d d1 d2 : Nat → Byte),
    s.phase ≠ .unbound → 0 ≤ rate → rate < 7 → range = key.val + 1 →
    (∀ j, j < 3 → s.portReply j = .completes (d j) (d1 j) (d2 j)) →
    exec (.magEnable rate range) s = .next
      { s with
        replies := s.replies.drop 3
        calls := s.calls + 3
        phase := .enabled
        gainValid := true
        gainXy := magGainTable[key].1
        gainZ := magGainTable[key].2
        history := s.history ++
          [ .w8 .mag s.cfg.params.mCra (BitVec.ofInt 8 (4 * rate)) (.value ()),
            .w8 .mag s.cfg.params.mCrb (BitVec.ofInt 8 (32 * range)) (.value ()),
            .w8 .mag s.cfg.params.mMode s.cfg.params.magModeContinuous (.value ()) ]
        responses := s.responses ++ [⟨.ok, none, .none⟩]
        commandPort := .idle }

/-- R131, R161, R167. -/
def Obligations.MagEnableRefusesInvalidOperands : Prop :=
  ∀ (s : State) (rate range : Int), s.phase ≠ .unbound →
    ((rate < 0 ∨ 7 ≤ rate) →
      exec (.magEnable rate range) s = .next
        { s with responses := s.responses ++ [⟨.invalidArgumentRate, none, .none⟩], commandPort := .idle }) ∧
    (0 ≤ rate → rate < 7 → (range < 1 ∨ 8 ≤ range) →
      exec (.magEnable rate range) s = .next
        { s with responses := s.responses ++ [⟨.invalidArgumentRange, none, .none⟩], commandPort := .idle })

/-- R132: the gains and GAIN_VALID are kept. -/
def Obligations.MagDisableKeepsTheGains : Prop :=
  ∀ (s : State) (b0 b1 b2 : Byte), s.phase ≠ .unbound → s.portReply 0 = .completes b0 b1 b2 →
    exec .magDisable s = .next
      { s with
        replies := s.replies.drop 1
        calls := s.calls + 1
        phase := .disabled
        history := s.history ++ [.w8 .mag s.cfg.params.mMode s.cfg.params.magModeSleep (.value ())]
        responses := s.responses ++ [⟨.ok, none, .none⟩]
        commandPort := .idle }

/-- R133 in ENABLED: X and Y by GAIN_XY, Z by GAIN_Z, +INF for a sample of -4096. -/
def Obligations.MagReadConvertsEachAxisWhenEnabled : Prop :=
  ∀ (s : State) (d d1 d2 : Nat → Byte) (raw : Nat → Int), s.phase = .enabled →
    (∀ j, j < 3 → s.portReply j = .completes (d j) (d1 j) (d2 j) ∧ raw j = 256 * (d j).toInt + (d1 j).toNat) →
    exec .magRead s = .next
      { s with
        replies := s.replies.drop 3
        calls := s.calls + 3
        history := s.history ++
          [ .r16be .mag s.cfg.params.mOutX (.value (raw 0)), .r16be .mag s.cfg.params.mOutY (.value (raw 1)),
            .r16be .mag s.cfg.params.mOutZ (.value (raw 2)) ]
        responses := s.responses ++
          [⟨.ok, none, .three
            (if raw 0 = -4096 then plusInf else fdiv (fmul (i2f (raw 0)) float100) (i2f s.gainXy.toNat))
            (if raw 1 = -4096 then plusInf else fdiv (fmul (i2f (raw 1)) float100) (i2f s.gainXy.toNat))
            (if raw 2 = -4096 then plusInf else fdiv (fmul (i2f (raw 2)) float100) (i2f s.gainZ.toNat))⟩]
        commandPort := .idle }

/-- R133 in DISABLED, gains valid or not: the same three reads, status OK, three free values (log 11). -/
def Obligations.MagReadGivesFreeValuesWhenDisabled : Prop :=
  ∀ (s : State) (d d1 d2 : Nat → Byte) (raw : Nat → Int), s.phase = .disabled →
    (∀ j, j < 3 → s.portReply j = .completes (d j) (d1 j) (d2 j) ∧ raw j = 256 * (d j).toInt + (d1 j).toNat) →
    exec .magRead s = .next
      { s with
        replies := s.replies.drop 3
        calls := s.calls + 3
        draws := s.draws + 3
        history := s.history ++
          [ .r16be .mag s.cfg.params.mOutX (.value (raw 0)), .r16be .mag s.cfg.params.mOutY (.value (raw 1)),
            .r16be .mag s.cfg.params.mOutZ (.value (raw 2)) ]
        responses := s.responses ++
          [⟨.ok, none, .three (Config.freeFloat s.draws) (Config.freeFloat (s.draws + 1))
            (Config.freeFloat (s.draws + 2))⟩]
        commandPort := .idle }

/-- R134: the reads and the payload in the order X, Z, Y, unscaled. -/
def Obligations.MagRdrawReturnsRawSamplesInOrderXZY : Prop :=
  ∀ (s : State) (d d1 d2 : Nat → Byte) (raw : Nat → Int), s.phase ≠ .unbound →
    (∀ j, j < 3 → s.portReply j = .completes (d j) (d1 j) (d2 j) ∧ raw j = 256 * (d j).toInt + (d1 j).toNat) →
    exec (.magRdraw true) s = .next
      { s with
        replies := s.replies.drop 3
        calls := s.calls + 3
        history := s.history ++
          [ .r16be .mag s.cfg.params.mOutX (.value (raw 0)), .r16be .mag s.cfg.params.mOutZ (.value (raw 1)),
            .r16be .mag s.cfg.params.mOutY (.value (raw 2)) ]
        responses := s.responses ++
          [⟨.ok, none, .three (BitVec.ofInt 64 (raw 0)) (BitVec.ofInt 64 (raw 1)) (BitVec.ofInt 64 (raw 2))⟩]
        commandPort := .idle }

/-- R134, R161: without the flag, no read and no change. -/
def Obligations.MagRdrawRefusesAnUnassertedFlag : Prop :=
  ∀ s : State, s.phase ≠ .unbound →
    exec (.magRdraw false) s = .next
      { s with responses := s.responses ++ [⟨.invalidArgumentRaw, none, .none⟩], commandPort := .idle }

/-- R163: before argument validation and before any call, whatever the operands. -/
def Obligations.UnboundMagnetometerAnswersNotConstructed : Prop :=
  ∀ (s : State) (i : Instr), s.phase = .unbound →
    (i = .magDisable ∨ i = .magRead ∨ (∃ rate range, i = .magEnable rate range) ∨ ∃ flag, i = .magRdraw flag) →
    exec i s = .next
      { s with responses := s.responses ++ [⟨.notConstructed, none, .none⟩], commandPort := .idle }

/-! ## Every operation -/

/-- R51, R46: with every call completed, the history grows by the accesses of the table in its order, then by the
delay. -/
def Obligations.CompletedOperationFollowsTheAccessTable : Prop :=
  ∀ (i : Instr) (s : State), i.admitted s → s.completesFirst (i.accesses s.cfg.params).length →
    (i.delayEvents ≠ [] → s.timerReply = .expires) →
    ∃ t r, exec i s = .next t ∧ t.history = s.history ++ i.events s (i.accesses s.cfg.params).length ++ i.delayEvents ∧
      t.calls = s.calls + (i.accesses s.cfg.params).length ∧ t.commandPort = .idle ∧
      t.responses = s.responses ++ [r] ∧ (r.status = .ok ∨ i = .magInit ∧ r.status = .unrecognizedDevice)

/-- R165: the operation ends at the first failing call: the events up to it, TRANSPORT_ERROR, code 0x05,
with the port's error, no later call and no delay; the MAG state is unchanged, or UNBOUND after MAG_INIT. -/
def Obligations.TransportErrorEndsTheOperationAtTheFailingCall : Prop :=
  Status.transportError.code = 0x05#8 ∧
  ∀ (i : Instr) (s : State) (j : Nat) (e : PortError), i.admitted s → j < (i.accesses s.cfg.params).length →
    s.completesFirst j → s.portReply j = .fails e →
    ∃ t, exec i s = .next t ∧ t.history = s.history ++ i.events s (j + 1) ∧
      t.responses = s.responses ++ [⟨.transportError, some e, .none⟩] ∧ t.commandPort = .idle ∧
      t.calls = s.calls + (j + 1) ∧ t.delays = s.delays ∧
      (if i = .magInit then t.phase = .unbound ∧ t.gainValid = false else t.mag = s.mag)

/-- R36, R172: a call that never completes: no response, SCP stays busy, no later call. A hang as a state, and the event
of a call without an answer, are the model's (log 5). -/
def Obligations.StalledCallLeavesTheMachineBusyWithoutAResponse : Prop :=
  ∀ (i : Instr) (s : State) (j : Nat), i.admitted s → j < (i.accesses s.cfg.params).length →
    s.completesFirst j → s.portReply j = .stalls →
    ∃ t, exec i s = .next t ∧ t.history = s.history ++ i.events s (j + 1) ∧ t.responses = s.responses ∧
      t.commandPort = .busy ∧ t.calls = s.calls + (j + 1) ∧ t.delays = s.delays

/-- R62, R72: an operation that ends gives one response record and leaves SCP idle; one that hangs gives none and leaves
it busy (a hang as a state is the model's, log 5). A payload comes with OK alone, `INFO` with TRANSPORT_ERROR alone,
and `NV` is the operation's. -/
def Obligations.EveryOperationGivesOneResponseOrHangs : Prop :=
  ∀ (i : Instr) (s t : State), exec i s = .next t →
    (t.commandPort = .busy ∧ t.responses = s.responses) ∨
    (t.commandPort = .idle ∧ ∃ r, t.responses = s.responses ++ [r] ∧ (r.info.isSome = true ↔ r.status = .transportError) ∧
      (r.status ≠ .ok → r.payload = .none) ∧
      (r.status = .ok → r.payload.nv =
        match i with
        | .accRead => 3
        | .magRead => 3
        | .magRdraw _ => 3
        | .accRdrange => 1
        | _ => 0))

/-- R45, R37, R140: the history only grows, by at most seven calls of the operation's own unit and one delay. -/
def Obligations.HistoryOnlyGrowsByTheUnitsOwnCalls : Prop :=
  ∀ (i : Instr) (s t : State), exec i s = .next t →
    ∃ evs, t.history = s.history ++ evs ∧ (evs.filter (fun e => !e.isDelay)).length ≤ 7 ∧
      (evs.filter Event.isDelay).length ≤ 1 ∧ ∀ e ∈ evs, e.unit? = some i.unit ∨ e = .delay 10 ∧ i.unit = .acc

/-- R179, which the spec derives from R130 to R134: the MAG state after each way an operation can end, over all operations
and statuses. -/
def Obligations.MagStateAfterEachEndingIsTheTables : Prop :=
  ∀ (i : Instr) (s t : State) (r : Response), exec i s = .next t → t.responses = s.responses ++ [r] →
    MagAfter i r.status s t

/-- R142, R11: the MAG state changes only in MAG_INIT, MAG_ENABLE and MAG_DISABLE. -/
def Obligations.OnlyInitEnableAndDisableChangeTheMagState : Prop :=
  ∀ (i : Instr) (s t : State), exec i s = .next t → t.mag ≠ s.mag →
    i = .magInit ∨ (∃ rate range, i = .magEnable rate range) ∨ i = .magDisable

/-! ## What an operation cannot learn -/

/-- R2, R16: an accelerometer operation neither reads nor writes the MAG state. -/
def Obligations.AccelerometerOperationsIgnoreTheMagState : Prop :=
  ∀ (i : Instr) (s : State) (m : MagState), i.unit = .acc →
    ∃ t, exec i s = .next t ∧ t.mag = s.mag ∧ exec i (s.withMag m) = .next (t.withMag m)

/-- R133 (U1, U2): outside ENABLED, MAG_READ computes with no gain register. -/
def Obligations.DisabledMagReadDoesNotUseTheGains : Prop :=
  ∀ (s : State) (m : MagState), s.phase ≠ .enabled → m.phase = s.phase →
    ∃ t, exec .magRead s = .next t ∧ exec .magRead (s.withMag m) = .next (t.withMag m)

/-- R134: MAG_RDRAW uses no gain and does the same in DISABLED and ENABLED. -/
def Obligations.MagRdrawIgnoresGainsAndEnabling : Prop :=
  ∀ (s : State) (m : MagState) (flag : Bool), s.phase ≠ .unbound → m.phase ≠ .unbound →
    ∃ t, exec (.magRdraw flag) s = .next t ∧ exec (.magRdraw flag) (s.withMag m) = .next (t.withMag m)

/-! ## Idempotence -/

/-- R42, R111, R132: a disable issued twice writes the same byte to the same register twice, which the spec derives
from R111 and R132, and leaves the same MAG state as once. -/
def Obligations.DisablingTwiceRepeatsTheWriteAndKeepsTheState : Prop :=
  ∀ (s : State) (accOff magOff : Event), s.completesFirst 2 →
    accOff = .w8 .acc s.cfg.params.aCtrl1 s.cfg.params.accCtrl1Disable (.value ()) →
    magOff = .w8 .mag s.cfg.params.mMode s.cfg.params.magModeSleep (.value ()) →
    (∃ t u, exec .accDisable s = .next t ∧ exec .accDisable t = .next u ∧ t.history = s.history ++ [accOff] ∧
      u.history = s.history ++ [accOff, accOff] ∧ t.mag = s.mag ∧ u.mag = t.mag) ∧
    (s.phase ≠ .unbound →
      ∃ t u, exec .magDisable s = .next t ∧ exec .magDisable t = .next u ∧ t.history = s.history ++ [magOff] ∧
        u.history = s.history ++ [magOff, magOff] ∧ t.mag = { s.mag with phase := .disabled } ∧ u.mag = t.mag)
end

