-- ==== Sys2Proof/Laws/Binary64.lean ====
section
/-! SUPPORT. The fields and the magnitude of a packed FLOAT, and what rounding a ratio gives: a significand of at most
53 bits at its last place. -/

namespace Sys2Proof.Machine

/-! ### Packing -/

theorem onePlace_eq : onePlace = 1074 := by unfold onePlace; rfl

theorem unitsPerOne_pos : 0 < unitsPerOne := Nat.two_pow_pos onePlace

theorem floatPack_toNat (neg : Bool) {mag : Nat} (h : mag < 2 ^ 63) :
    (floatPack neg mag).toNat = (if neg then 2 ^ 63 else 0) + mag := by
  have : (if neg then 2 ^ 63 else 0) + mag < 2 ^ 64 := by split <;> omega
  rw [floatPack, BitVec.toNat_ofNat, Nat.mod_eq_of_lt this]

theorem floatNeg_floatPack (neg : Bool) {mag : Nat} (h : mag < 2 ^ 63) : floatNeg (floatPack neg mag) = neg := by
  rw [floatNeg, BitVec.msb_eq_decide, floatPack_toNat neg h]
  cases neg <;> simp
  omega

theorem floatExp_floatPack (neg : Bool) {mag : Nat} (h : mag < 2 ^ 63) :
    floatExp (floatPack neg mag) = mag / 2 ^ 52 := by
  rw [floatExp, floatPack_toNat neg h]
  cases neg <;> simp <;> omega

theorem floatFrac_floatPack (neg : Bool) {mag : Nat} (h : mag < 2 ^ 63) :
    floatFrac (floatPack neg mag) = mag % 2 ^ 52 := by
  rw [floatFrac, floatPack_toNat neg h]
  cases neg <;> simp
  omega

theorem floatFinite_floatPack (neg : Bool) {mag : Nat} (h : mag < 2 ^ 63) :
    floatFinite (floatPack neg mag) = decide (mag < infBits) := by
  rw [floatFinite, floatExp_floatPack neg h, infBits, decide_eq_decide]
  omega

/-- The magnitude of a packed significand `m` at last place `k`. -/
theorem floatUnits_floatPack (neg : Bool) {k m : Nat} (hm : m ≤ 2 ^ 53) (hk : k = 0 ∨ 2 ^ 52 ≤ m)
    (hfin : k * 2 ^ 52 + m < infBits) : floatUnits (floatPack neg (k * 2 ^ 52 + m)) = m * 2 ^ k := by
  have hlt : k * 2 ^ 52 + m < 2 ^ 63 := by unfold infBits at hfin; omega
  rw [floatUnits, floatExp_floatPack neg hlt, floatFrac_floatPack neg hlt]
  obtain hm1 | hm1 | rfl : m < 2 ^ 52 ∨ (2 ^ 52 ≤ m ∧ m < 2 ^ 53) ∨ m = 2 ^ 53 := by omega
  · obtain rfl : k = 0 := by omega
    rw [if_pos (by omega)]
    omega
  · have he : (k * 2 ^ 52 + m) / 2 ^ 52 = k + 1 := by omega
    rw [if_neg (by omega), he, show 2 ^ 52 + (k * 2 ^ 52 + m) % 2 ^ 52 = m by omega, Nat.add_sub_cancel]
  · have he : (k * 2 ^ 52 + 2 ^ 53) / 2 ^ 52 = k + 2 := by omega
    rw [if_neg (by omega), he, show 2 ^ 52 + (k * 2 ^ 52 + 2 ^ 53) % 2 ^ 52 = 2 ^ 52 by omega,
      show k + 2 - 1 = k + 1 by omega, Nat.pow_succ, Nat.pow_succ 2 52]
    ring

/-- The magnitude of a finite FLOAT: a significand below 2 ^ 53 at a last place, with its leading bit set unless the
place is the lowest. -/
theorem floatUnits_shape {x : Float64} (h : floatFinite x = true) :
    ∃ m k, floatUnits x = m * 2 ^ k ∧ m < 2 ^ 53 ∧ (k = 0 ∨ 2 ^ 52 ≤ m) ∧ k ≤ 2045 := by
  have hf : floatFrac x < 2 ^ 52 := Nat.mod_lt _ (by decide)
  have he : floatExp x < 2047 := by simpa [floatFinite] using h
  unfold floatUnits
  split_ifs with h0
  · exact ⟨floatFrac x, 0, by simp, by omega, .inl rfl, by omega⟩
  · exact ⟨_, _, rfl, by omega, .inr (by omega), by omega⟩

/-! ### Rounding -/

theorem nearestEven_bounds (num den : Nat) :
    num / den ≤ nearestEven num den ∧ nearestEven num den ≤ num / den + 1 := by
  unfold nearestEven
  split_ifs <;> omega

/-- A whole number is its own nearest integer. -/
theorem nearestEven_mul_left (n : Nat) {den : Nat} (h : 0 < den) : nearestEven (n * den) den = n := by
  simp [nearestEven, Nat.mul_div_cancel _ h, h]

/-- Scaling both sides of a ratio by the same factor does not change what it rounds to. -/
theorem nearestEven_mul_mul_right (num den : Nat) {c : Nat} (h : 0 < c) :
    nearestEven (num * c) (den * c) = nearestEven num den := by
  have e1 : 2 * (num * c % (den * c)) = 2 * (num % den) * c := by rw [Nat.mul_mod_mul_right, Nat.mul_assoc]
  simp only [nearestEven, e1, Nat.mul_div_mul_right _ _ h, Nat.mul_lt_mul_right h]

theorem roundUnits_mul_mul_right (num den : Nat) {c : Nat} (h : 0 < c) :
    roundUnits (num * c) (den * c) = roundUnits num den := by
  simp only [roundUnits, Nat.mul_div_mul_right _ _ h]
  rw [Nat.mul_right_comm den c, nearestEven_mul_mul_right _ _ h]

/-- The leading place is the logarithm: the halving's answer is taken only where it is. -/
theorem floorLog2_eq (n : Nat) : floorLog2 n = Nat.log2 n := by
  unfold floorLog2
  generalize leadingPlace _ n = r
  split_ifs with h
  · have hn : n ≠ 0 := by rintro rfl; simp at h
    have h1 := Nat.div_mul_le_self n (2 ^ r)
    have h2 := Nat.lt_div_mul_add (a := n) (Nat.two_pow_pos r)
    rw [h, one_mul] at h1 h2
    exact ((Nat.log2_eq_iff hn).mpr ⟨h1, by rw [Nat.pow_succ]; omega⟩).symm
  · rfl

theorem lastPlace_eq (n : Nat) : lastPlace n = Nat.log2 n - 52 := by rw [lastPlace, floorLog2_eq]

/-- At its last place a ratio has an integer part below 2 ^ 53, with bit 52 set unless the place is the lowest. -/
theorem lastPlace_bounds (num den : Nat) :
    num / (den * 2 ^ lastPlace (num / den)) < 2 ^ 53 ∧
      (lastPlace (num / den) = 0 ∨ 2 ^ 52 ≤ num / (den * 2 ^ lastPlace (num / den))) := by
  rw [← Nat.div_div_eq_div_mul]
  generalize num / den = n
  rw [lastPlace_eq]
  by_cases hn : n = 0
  · subst hn; simp
  · have h1 : n < 2 ^ (Nat.log2 n + 1) := Nat.lt_log2_self
    have h2 : 2 ^ Nat.log2 n ≤ n := Nat.log2_self_le hn
    refine ⟨?_, ?_⟩
    · rw [Nat.div_lt_iff_lt_mul (Nat.pow_pos (by decide)), ← Nat.pow_add]
      exact h1.trans_le (Nat.pow_le_pow_right (by decide) (by omega))
    · by_cases hk : Nat.log2 n - 52 = 0
      · exact .inl hk
      · right
        rw [Nat.le_div_iff_mul_le (Nat.pow_pos (by decide)), ← Nat.pow_add]
        exact (Nat.pow_le_pow_right (by decide) (by omega)).trans h2

theorem roundUnits_le (num den : Nat) : roundUnits num den ≤ infBits := Nat.min_le_right _ _

theorem roundUnits_lt (num den : Nat) : roundUnits num den < 2 ^ 63 :=
  (roundUnits_le num den).trans_lt (by decide)

/-- What rounding to a finite FLOAT gives: the significand is the integer nearest to the ratio at its last place. -/
theorem floatUnits_roundUnits (neg : Bool) {num den : Nat} (h : roundUnits num den < infBits) :
    floatUnits (floatPack neg (roundUnits num den)) =
      nearestEven num (den * 2 ^ lastPlace (num / den)) * 2 ^ lastPlace (num / den) := by
  obtain ⟨hlt, hge⟩ := lastPlace_bounds num den
  obtain ⟨hlo, hhi⟩ := nearestEven_bounds num (den * 2 ^ lastPlace (num / den))
  have heq : roundUnits num den =
      lastPlace (num / den) * 2 ^ 52 + nearestEven num (den * 2 ^ lastPlace (num / den)) := by
    unfold roundUnits at h ⊢
    omega
  rw [heq] at h ⊢
  exact floatUnits_floatPack neg (by omega) (by omega) h

/-! ### Nearest -/

/-- No integer is nearer to `num / den` than `nearestEven`, and if another is as near then `nearestEven` is even. -/
theorem nearestEven_nearest (num : Nat) {den : Nat} (hd : 0 < den) (x : Nat) :
    ((nearestEven num den * den : Int) - num).natAbs ≤ ((x * den : Int) - num).natAbs ∧
    (((nearestEven num den * den : Int) - num).natAbs = ((x * den : Int) - num).natAbs →
      x ≠ nearestEven num den → nearestEven num den % 2 = 0) := by
  have hdiv : num = den * (num / den) + num % den := (Nat.div_add_mod num den).symm
  have hr := Nat.mod_lt num hd
  have hne : nearestEven num den =
      if 2 * (num % den) < den then num / den else if den < 2 * (num % den) then num / den + 1
        else num / den + num / den % 2 := rfl
  generalize nearestEven num den = m at *
  generalize num / den = q at *
  generalize num % den = r at *
  subst hdiv
  have hx : (x : Int) * den - (den * q + r : Nat) = ((x : Int) - q) * den - r := by push_cast; ring
  have hm : (m : Int) * den - (den * q + r : Nat) = ((m : Int) - q) * den - r := by push_cast; ring
  rw [hx, hm]
  have below : x < q → ((x : Int) - q) * den ≤ -den := fun h => by nlinarith
  have above : q + 2 ≤ x → (2 * den : Int) ≤ ((x : Int) - q) * den := fun h => by nlinarith
  have succ : x = q + 1 → ((x : Int) - q) * den = den := by rintro rfl; push_cast; ring
  have self : x = q → ((x : Int) - q) * den = 0 := by rintro rfl; ring
  have msucc : m = q + 1 → ((m : Int) - q) * den = den := fun h => by rw [h]; push_cast; ring
  have mself : m = q → ((m : Int) - q) * den = 0 := fun h => by rw [h]; ring
  generalize ((x : Int) - q) * den = X at *
  generalize ((m : Int) - q) * den = M at *
  split_ifs at hne <;> constructor <;> omega

/-! ### Exact results -/

/-- A significand below 2 ^ 53 at any place from 52 to 1900 is rounded to itself. -/
theorem roundUnits_significand {n p : Nat} (hn : n < 2 ^ 53) (hp : 52 ≤ p) (hp' : p ≤ 1900) (neg : Bool) :
    roundUnits (n * 2 ^ p) 1 < infBits ∧ floatUnits (floatPack neg (roundUnits (n * 2 ^ p) 1)) = n * 2 ^ p := by
  by_cases h0 : n = 0
  · subst h0
    have h : roundUnits (0 * 2 ^ p) 1 < infBits := by simp [roundUnits, nearestEven, lastPlace_eq, infBits]
    exact ⟨h, by rw [floatUnits_roundUnits neg h]; simp [nearestEven]⟩
  · have h1 : n < 2 ^ (Nat.log2 n + 1) := Nat.lt_log2_self
    have h2 : 2 ^ Nat.log2 n ≤ n := Nat.log2_self_le h0
    have hL : Nat.log2 n < 53 := (Nat.log2_lt h0).mpr hn
    have hlog : Nat.log2 (n * 2 ^ p) = Nat.log2 n + p := by
      rw [Nat.log2_eq_iff (Nat.mul_ne_zero h0 (Nat.two_pow_pos _).ne')]
      refine ⟨?_, ?_⟩
      · rw [Nat.pow_add]
        exact Nat.mul_le_mul_right _ h2
      · rw [Nat.add_right_comm, Nat.pow_add]
        exact Nat.mul_lt_mul_of_pos_right h1 (Nat.two_pow_pos _)
    have hk : lastPlace (n * 2 ^ p / 1) = Nat.log2 n + p - 52 := by rw [Nat.div_one, lastPlace_eq, hlog]
    have hsplit : n * 2 ^ p = n * 2 ^ (52 - Nat.log2 n) * 2 ^ (Nat.log2 n + p - 52) := by
      rw [Nat.mul_assoc, ← Nat.pow_add]
      congr 2
      omega
    have hnear : nearestEven (n * 2 ^ p) (1 * 2 ^ lastPlace (n * 2 ^ p / 1)) = n * 2 ^ (52 - Nat.log2 n) := by
      rw [hk, hsplit, one_mul, nearestEven_mul_left _ (Nat.two_pow_pos _)]
    have hm : n * 2 ^ (52 - Nat.log2 n) < 2 ^ 53 := by
      calc _ < 2 ^ (Nat.log2 n + 1) * 2 ^ (52 - Nat.log2 n) := Nat.mul_lt_mul_of_pos_right h1 (Nat.two_pow_pos _)
        _ = 2 ^ 53 := by rw [← Nat.pow_add]; congr 1; omega
    have hfin : roundUnits (n * 2 ^ p) 1 < infBits := by
      unfold roundUnits
      rw [hnear, hk, infBits]
      generalize n * 2 ^ (52 - Nat.log2 n) = m at hm
      generalize Nat.log2 n = l at hL
      clear * - hm hL hp'
      omega
    exact ⟨hfin, by rw [floatUnits_roundUnits neg hfin, hnear, hk, ← hsplit]⟩

/-- A whole number below 2 ^ 53 is rounded to itself. -/
theorem roundUnits_ones {n : Nat} (hn : n < 2 ^ 53) (neg : Bool) :
    roundUnits (n * unitsPerOne) 1 < infBits ∧
      floatUnits (floatPack neg (roundUnits (n * unitsPerOne) 1)) = n * unitsPerOne :=
  roundUnits_significand hn (by rw [onePlace_eq]; decide) (by rw [onePlace_eq]; decide) neg

/-- A ratio below 2 ^ 2000 units is rounded to a finite FLOAT. -/
theorem roundUnits_finite {num den e : Nat} (h : num / den < 2 ^ e) (he : e ≤ 2000) : roundUnits num den < infBits := by
  obtain ⟨hlt, -⟩ := lastPlace_bounds num den
  obtain ⟨-, hhi⟩ := nearestEven_bounds num (den * 2 ^ lastPlace (num / den))
  have hk : lastPlace (num / den) ≤ e := by
    rw [lastPlace_eq]
    by_cases h0 : num / den = 0
    · simp [h0]
    · have := (Nat.log2_lt h0).mpr h
      omega
  unfold roundUnits
  rw [infBits]
  omega

/-- A quotient of a whole number below 2 ^ 53 is rounded to a finite FLOAT. -/
theorem roundUnits_ones_div_finite {n : Nat} (den : Nat) (hn : n < 2 ^ 53) :
    roundUnits (n * unitsPerOne) den < infBits := by
  refine roundUnits_finite (e := 53 + onePlace) ((Nat.div_le_self _ _).trans_lt ?_) (by rw [onePlace_eq]; decide)
  rw [Nat.pow_add]
  exact Nat.mul_lt_mul_of_pos_right hn unitsPerOne_pos

/-- Rounding at most doubles a magnitude and adds one unit. -/
theorem floatUnits_roundUnits_le (neg : Bool) {num den : Nat} (h : roundUnits num den < infBits) :
    floatUnits (floatPack neg (roundUnits num den)) ≤ 2 * (num / den) + 1 := by
  rw [floatUnits_roundUnits neg h]
  obtain ⟨-, hhi⟩ := nearestEven_bounds num (den * 2 ^ lastPlace (num / den))
  refine (Nat.mul_le_mul_right _ hhi).trans ?_
  rw [← Nat.div_div_eq_div_mul, Nat.add_mul, one_mul]
  have h1 := Nat.div_mul_le_self (num / den) (2 ^ lastPlace (num / den))
  have h2 : 2 ^ lastPlace (num / den) ≤ num / den + 1 := by
    rw [lastPlace_eq]
    by_cases h0 : num / den = 0
    · simp [h0]
    · have := Nat.log2_self_le h0
      have := Nat.pow_le_pow_right (n := 2) (by decide) (Nat.sub_le (Nat.log2 (num / den)) 52)
      omega
  omega

/-- The two signs of a magnitude differ in bit 63. -/
theorem floatPack_true {mag : Nat} (h : mag < 2 ^ 63) :
    floatPack true mag = floatPack false mag ^^^ 0x8000000000000000#64 := by
  have bit : mag + 2 ^ 63 = mag ^^^ 2 ^ 63 := by
    have := Nat.two_pow_add_eq_or_of_lt h 1
    rw [Nat.mul_one, Nat.add_comm] at this
    rw [this]
    refine Nat.eq_of_testBit_eq fun i => ?_
    rw [Nat.testBit_or, Nat.testBit_xor, Nat.testBit_two_pow]
    by_cases hi : 63 = i
    · subst hi; simp [Nat.testBit_lt_two_pow h]
    · simp [hi]
  apply BitVec.eq_of_toNat_eq
  rw [BitVec.toNat_xor, floatPack_toNat _ h, floatPack_toNat _ h]
  simpa [Nat.add_comm] using bit

/-- Flipping the sign flips bit 63. -/
theorem floatPack_not (neg : Bool) {mag : Nat} (h : mag < 2 ^ 63) :
    floatPack (!neg) mag = floatPack neg mag ^^^ 0x8000000000000000#64 := by
  cases neg
  · exact floatPack_true h
  · rw [Bool.not_true, floatPack_true h, BitVec.xor_assoc, BitVec.xor_self, BitVec.xor_zero]

end Sys2Proof.Machine
end

