-- ==== Sys2Proof/Laws/Datapath.lean ====
section
/-! SUPPORT. What the accelerometer's scaling computes: a sign and a finite magnitude that the sign does not reach. -/

namespace Sys2Proof.Machine

/-! ### The gains and the unit -/

theorem float1_units : floatUnits float1 < 4 * unitsPerOne := by decide +kernel

theorem float2_units : floatUnits float2 < 4 * unitsPerOne := by decide +kernel

theorem float3p9_units : floatUnits float3p9 < 4 * unitsPerOne := by decide +kernel

/-- A gain is positive and below 4. -/
theorem accGain_units (g : Float64) (hg : g ∈ [float1, float2, float3p9]) :
    floatFinite g = true ∧ floatNeg g = false ∧ floatUnits g < 4 * unitsPerOne := by
  simp only [List.mem_cons, List.not_mem_nil, or_false] at hg
  rcases hg with h | h | h <;> rw [h]
  · exact ⟨rfl, rfl, float1_units⟩
  · exact ⟨rfl, rfl, float2_units⟩
  · exact ⟨rfl, rfl, float3p9_units⟩

/-- The unit constant is positive and below 1. -/
theorem accUnit_units :
    floatFinite accUnit = true ∧ floatNeg accUnit = false ∧ floatUnits accUnit < unitsPerOne := by decide +kernel

/-! ### Bounds on the magnitudes in the scaling -/

theorem scale_bound_gain {n G U : Nat} (h : n ≤ 2048) (g : G < 4 * U) : n * G < 2 ^ 14 * U :=
  (Nat.mul_le_mul_right _ h).trans_lt (by omega)
theorem scale_bound_rounded {F X U : Nat} (h : X < 2 ^ 14 * U) (g : F ≤ 2 * X + 1) (_ : 0 < U) : F < 2 ^ 16 * U := by
  omega

theorem scale_bound_unit {F A U V : Nat} (h : F < 2 ^ 16 * U) (g : A < V) : F * A < 2 ^ 16 * U * V :=
  Nat.mul_lt_mul_of_lt_of_le h g.le (by omega)

/-! ### The scaling -/

/-- The accelerometer's output and that of the opposite sample have one finite magnitude, each its sample's sign. -/
theorem accScale_sign (raw : Int) (h : raw.natAbs ≤ 2048) (g : Float64) (hg : g ∈ [float1, float2, float3p9]) :
    ∃ m, m < infBits ∧ accScale raw g = floatPack (decide (raw < 0)) m ∧
      accScale (-raw) g = floatPack (decide (-raw < 0)) m := by
  obtain ⟨g1, g2, g3⟩ := accGain_units g hg
  obtain ⟨u1, u2, u3⟩ := accUnit_units
  have step : ∀ neg, fmul (fmul (floatPack neg (roundUnits (raw.natAbs * unitsPerOne) 1)) g) accUnit =
      floatPack neg (roundUnits
        (floatUnits (floatPack neg (roundUnits (raw.natAbs * floatUnits g) 1)) * floatUnits accUnit) unitsPerOne) ∧
      roundUnits (floatUnits (floatPack neg (roundUnits (raw.natAbs * floatUnits g) 1)) * floatUnits accUnit)
        unitsPerOne < infBits := by
    intro neg
    obtain ⟨a1, a2⟩ := roundUnits_ones (n := raw.natAbs) (by omega) neg
    have e1 : fmul (floatPack neg (roundUnits (raw.natAbs * unitsPerOne) 1)) g =
        floatPack neg (roundUnits (raw.natAbs * floatUnits g) 1) := by
      have : roundUnits (raw.natAbs * unitsPerOne * floatUnits g) unitsPerOne =
          roundUnits (raw.natAbs * floatUnits g) 1 := by
        rw [← roundUnits_mul_mul_right (raw.natAbs * floatUnits g) 1 unitsPerOne_pos, one_mul, Nat.mul_right_comm]
      simp [fmul, g1, floatFinite_floatPack _ (roundUnits_lt _ _), a1, a2, g2,
        floatNeg_floatPack _ (roundUnits_lt _ _), this]
    have hb : raw.natAbs * floatUnits g < 2 ^ 14 * unitsPerOne := scale_bound_gain h g3
    have f1 : roundUnits (raw.natAbs * floatUnits g) 1 < infBits := by
      refine roundUnits_finite (e := 14 + onePlace) ?_ (by rw [onePlace_eq]; decide)
      rw [Nat.div_one, Nat.pow_add]; exact hb
    have hb2 := floatUnits_roundUnits_le neg f1
    rw [Nat.div_one] at hb2
    have f2 : roundUnits (floatUnits (floatPack neg (roundUnits (raw.natAbs * floatUnits g) 1)) * floatUnits accUnit)
        unitsPerOne < infBits := by
      refine roundUnits_finite (e := 16 + onePlace) ?_ (by rw [onePlace_eq]; decide)
      rw [Nat.div_lt_iff_lt_mul unitsPerOne_pos, Nat.pow_add]
      exact scale_bound_unit (scale_bound_rounded hb hb2 unitsPerOne_pos) u3
    rw [e1]
    refine ⟨?_, f2⟩
    simp [fmul, u1, u2, floatFinite_floatPack _ (roundUnits_lt _ _), f1, floatNeg_floatPack _ (roundUnits_lt _ _)]
  have hu : floatUnits (floatPack true (roundUnits (raw.natAbs * floatUnits g) 1)) =
      floatUnits (floatPack false (roundUnits (raw.natAbs * floatUnits g) 1)) := by
    simp [floatUnits, floatExp_floatPack _ (roundUnits_lt _ _), floatFrac_floatPack _ (roundUnits_lt _ _)]
  refine ⟨_, (step false).2, ?_, ?_⟩
  · rw [accScale, i2f, (step _).1]; cases decide (raw < 0) <;> simp [hu]
  · rw [accScale, i2f, Int.natAbs_neg, (step _).1]; cases decide (-raw < 0) <;> simp [hu]

end Sys2Proof.Machine
end

