-- ==== Sys2Proof/Laws/Decode.lean ====
section
/-! SUPPORT. The fields of a packed command word are what was packed, and a word whose reserved bits are zero is the
pack of its fields. -/

namespace Sys2Proof

/-- A bit of a packed word, from its place. -/
theorem getLsbD_packFields (opc : Byte) (raw : Bool) (rate range : Byte) (i : Nat) (hi : i < 32) :
    (packFields opc raw rate range).getLsbD i =
      if i < 8 then range.getLsbD i
      else if i < 16 then rate.getLsbD (i - 8)
      else if i = 16 then raw
      else if i < 24 then false
      else opc.getLsbD (i - 24) := by
  have hr : ∀ (b : Byte) (j : Nat), 8 ≤ j → b.getLsbD j = false := fun b j h => BitVec.getLsbD_of_ge b j h
  unfold packFields
  simp only [BitVec.getLsbD_or, BitVec.getLsbD_shiftLeft, BitVec.getLsbD_setWidth, BitVec.getLsbD_ofBool, hi,
    decide_true, Bool.true_and]
  split_ifs with h1 h2 h3 h4
  · simp [show i < 24 by omega, show i < 16 by omega, h1]
  · simp [show i < 24 by omega, h2, h1, hr range i (by omega), show i - 8 < 32 by omega]
  · subst h3; simp
  · simp [h4, h2, h1, hr range i (by omega), hr rate (i - 8) (by omega), show ¬ i - 16 = 0 by omega]
  · simp [h4, h2, h1, hr range i (by omega), hr rate (i - 8) (by omega), show ¬ i - 16 = 0 by omega,
      show i - 24 < 32 by omega]

section fields

variable (opc : Byte) (raw : Bool) (rate range : Byte)

@[simp] theorem opcField_packFields : opcField (packFields opc raw rate range) = opc := by
  refine BitVec.eq_of_getLsbD_eq fun i h => ?_
  rw [opcField, BitVec.getLsbD_extractLsb', getLsbD_packFields _ _ _ _ _ (by omega)]
  simp [h, show ¬ 24 + i < 8 by omega, show ¬ 24 + i < 16 by omega, show ¬ 24 + i = 16 by omega]

@[simp] theorem rawField_packFields : rawField (packFields opc raw rate range) = raw := by
  rw [rawField, getLsbD_packFields _ _ _ _ _ (by omega)]
  simp

@[simp] theorem rateByte_packFields : (packFields opc raw rate range).extractLsb' 8 8 = rate := by
  refine BitVec.eq_of_getLsbD_eq fun i h => ?_
  rw [BitVec.getLsbD_extractLsb', getLsbD_packFields _ _ _ _ _ (by omega)]
  simp [h, show 8 + i < 16 by omega]

@[simp] theorem rangeByte_packFields : (packFields opc raw rate range).extractLsb' 0 8 = range := by
  refine BitVec.eq_of_getLsbD_eq fun i h => ?_
  rw [BitVec.getLsbD_extractLsb', getLsbD_packFields _ _ _ _ _ (by omega)]
  simp [h]

/-- The reserved bits of R66 are zero in a packed word. -/
@[simp] theorem reserved_packFields : (packFields opc raw rate range).extractLsb' 17 7 = 0#7 := by
  refine BitVec.eq_of_getLsbD_eq fun i h => ?_
  rw [BitVec.getLsbD_extractLsb', getLsbD_packFields _ _ _ _ _ (by omega)]
  simp [show ¬ 17 + i < 8 by omega, show ¬ 17 + i < 16 by omega, show ¬ 17 + i = 16 by omega,
    show 17 + i < 24 by omega]

end fields

/-- The five fields cover the word: a word whose reserved bits are zero is the pack of its fields (R60). -/
theorem packFields_of_fields (cw : CommandWord) (h : cw.extractLsb' 17 7 = 0#7) :
    packFields (opcField cw) (rawField cw) (cw.extractLsb' 8 8) (cw.extractLsb' 0 8) = cw := by
  refine BitVec.eq_of_getLsbD_eq fun i hi => ?_
  rw [getLsbD_packFields _ _ _ _ _ hi]
  split_ifs with h1 h2 h3 h4
  · simp [h1]
  · rw [BitVec.getLsbD_extractLsb']
    simp [show i - 8 < 8 by omega, show 8 + (i - 8) = i by omega]
  · subst h3; rfl
  · have := congrArg (fun b => b.getLsbD (i - 17)) h
    simpa [show i - 17 < 7 by omega, show 17 + (i - 17) = i by omega] using this.symm
  · rw [opcField, BitVec.getLsbD_extractLsb']
    simp [show i - 24 < 8 by omega, show 24 + (i - 24) = i by omega]

end Sys2Proof
end

