-- ==== Sys2Proof/Laws/State.lean ====
section
/-! SUPPORT. What each update of the state does to each field: one lemma per field per update, true by `rfl`. -/

namespace Sys2Proof.Machine

variable (s : State)

/-! ### `State.record` -/

@[simp] theorem State.record_cfg (ev : Event) : (s.record ev).cfg = s.cfg := rfl
@[simp] theorem State.record_phase (ev : Event) : (s.record ev).phase = s.phase := rfl
@[simp] theorem State.record_gainValid (ev : Event) : (s.record ev).gainValid = s.gainValid := rfl
@[simp] theorem State.record_gainXy (ev : Event) : (s.record ev).gainXy = s.gainXy := rfl
@[simp] theorem State.record_gainZ (ev : Event) : (s.record ev).gainZ = s.gainZ := rfl
@[simp] theorem State.record_commandPort (ev : Event) : (s.record ev).commandPort = s.commandPort := rfl
@[simp] theorem State.record_history (ev : Event) : (s.record ev).history = s.history ++ [ev] := rfl
@[simp] theorem State.record_responses (ev : Event) : (s.record ev).responses = s.responses := rfl
@[simp] theorem State.record_hostInputs (ev : Event) : (s.record ev).hostInputs = s.hostInputs := rfl
@[simp] theorem State.record_replies (ev : Event) : (s.record ev).replies = s.replies := rfl
@[simp] theorem State.record_calls (ev : Event) : (s.record ev).calls = s.calls := rfl
@[simp] theorem State.record_timerReplies (ev : Event) : (s.record ev).timerReplies = s.timerReplies := rfl
@[simp] theorem State.record_delays (ev : Event) : (s.record ev).delays = s.delays := rfl
@[simp] theorem State.record_draws (ev : Event) : (s.record ev).draws = s.draws := rfl

/-! ### `State.deliver` -/

@[simp] theorem State.deliver_cfg (r : Response) : (s.deliver r).cfg = s.cfg := rfl
@[simp] theorem State.deliver_phase (r : Response) : (s.deliver r).phase = s.phase := rfl
@[simp] theorem State.deliver_gainValid (r : Response) : (s.deliver r).gainValid = s.gainValid := rfl
@[simp] theorem State.deliver_gainXy (r : Response) : (s.deliver r).gainXy = s.gainXy := rfl
@[simp] theorem State.deliver_gainZ (r : Response) : (s.deliver r).gainZ = s.gainZ := rfl
@[simp] theorem State.deliver_commandPort (r : Response) : (s.deliver r).commandPort = .idle := rfl
@[simp] theorem State.deliver_history (r : Response) : (s.deliver r).history = s.history := rfl
@[simp] theorem State.deliver_responses (r : Response) : (s.deliver r).responses = s.responses ++ [r] := rfl
@[simp] theorem State.deliver_hostInputs (r : Response) : (s.deliver r).hostInputs = s.hostInputs := rfl
@[simp] theorem State.deliver_replies (r : Response) : (s.deliver r).replies = s.replies := rfl
@[simp] theorem State.deliver_calls (r : Response) : (s.deliver r).calls = s.calls := rfl
@[simp] theorem State.deliver_timerReplies (r : Response) : (s.deliver r).timerReplies = s.timerReplies := rfl
@[simp] theorem State.deliver_delays (r : Response) : (s.deliver r).delays = s.delays := rfl
@[simp] theorem State.deliver_draws (r : Response) : (s.deliver r).draws = s.draws := rfl

/-! ### `State.hang` -/

@[simp] theorem State.hang_cfg : (s.hang).cfg = s.cfg := rfl
@[simp] theorem State.hang_phase : (s.hang).phase = s.phase := rfl
@[simp] theorem State.hang_gainValid : (s.hang).gainValid = s.gainValid := rfl
@[simp] theorem State.hang_gainXy : (s.hang).gainXy = s.gainXy := rfl
@[simp] theorem State.hang_gainZ : (s.hang).gainZ = s.gainZ := rfl
@[simp] theorem State.hang_commandPort : (s.hang).commandPort = .busy := rfl
@[simp] theorem State.hang_history : (s.hang).history = s.history := rfl
@[simp] theorem State.hang_responses : (s.hang).responses = s.responses := rfl
@[simp] theorem State.hang_hostInputs : (s.hang).hostInputs = s.hostInputs := rfl
@[simp] theorem State.hang_replies : (s.hang).replies = s.replies := rfl
@[simp] theorem State.hang_calls : (s.hang).calls = s.calls := rfl
@[simp] theorem State.hang_timerReplies : (s.hang).timerReplies = s.timerReplies := rfl
@[simp] theorem State.hang_delays : (s.hang).delays = s.delays := rfl
@[simp] theorem State.hang_draws : (s.hang).draws = s.draws := rfl

/-! ### `State.afterCall` -/

@[simp] theorem State.afterCall_cfg : (s.afterCall).cfg = s.cfg := rfl
@[simp] theorem State.afterCall_phase : (s.afterCall).phase = s.phase := rfl
@[simp] theorem State.afterCall_gainValid : (s.afterCall).gainValid = s.gainValid := rfl
@[simp] theorem State.afterCall_gainXy : (s.afterCall).gainXy = s.gainXy := rfl
@[simp] theorem State.afterCall_gainZ : (s.afterCall).gainZ = s.gainZ := rfl
@[simp] theorem State.afterCall_commandPort : (s.afterCall).commandPort = s.commandPort := rfl
@[simp] theorem State.afterCall_history : (s.afterCall).history = s.history := rfl
@[simp] theorem State.afterCall_responses : (s.afterCall).responses = s.responses := rfl
@[simp] theorem State.afterCall_hostInputs : (s.afterCall).hostInputs = s.hostInputs := rfl
@[simp] theorem State.afterCall_replies : (s.afterCall).replies = s.replies.tail := rfl
@[simp] theorem State.afterCall_calls : (s.afterCall).calls = s.calls + 1 := rfl
@[simp] theorem State.afterCall_timerReplies : (s.afterCall).timerReplies = s.timerReplies := rfl
@[simp] theorem State.afterCall_delays : (s.afterCall).delays = s.delays := rfl
@[simp] theorem State.afterCall_draws : (s.afterCall).draws = s.draws := rfl

/-! ### `State.afterDelay` -/

@[simp] theorem State.afterDelay_cfg : (s.afterDelay).cfg = s.cfg := rfl
@[simp] theorem State.afterDelay_phase : (s.afterDelay).phase = s.phase := rfl
@[simp] theorem State.afterDelay_gainValid : (s.afterDelay).gainValid = s.gainValid := rfl
@[simp] theorem State.afterDelay_gainXy : (s.afterDelay).gainXy = s.gainXy := rfl
@[simp] theorem State.afterDelay_gainZ : (s.afterDelay).gainZ = s.gainZ := rfl
@[simp] theorem State.afterDelay_commandPort : (s.afterDelay).commandPort = s.commandPort := rfl
@[simp] theorem State.afterDelay_history : (s.afterDelay).history = s.history := rfl
@[simp] theorem State.afterDelay_responses : (s.afterDelay).responses = s.responses := rfl
@[simp] theorem State.afterDelay_hostInputs : (s.afterDelay).hostInputs = s.hostInputs := rfl
@[simp] theorem State.afterDelay_replies : (s.afterDelay).replies = s.replies := rfl
@[simp] theorem State.afterDelay_calls : (s.afterDelay).calls = s.calls := rfl
@[simp] theorem State.afterDelay_timerReplies : (s.afterDelay).timerReplies = s.timerReplies.tail := rfl
@[simp] theorem State.afterDelay_delays : (s.afterDelay).delays = s.delays + 1 := rfl
@[simp] theorem State.afterDelay_draws : (s.afterDelay).draws = s.draws := rfl

/-! ### `State.unbindMag` -/

@[simp] theorem State.unbindMag_cfg : (s.unbindMag).cfg = s.cfg := rfl
@[simp] theorem State.unbindMag_phase : (s.unbindMag).phase = .unbound := rfl
@[simp] theorem State.unbindMag_gainValid : (s.unbindMag).gainValid = false := rfl
@[simp] theorem State.unbindMag_gainXy : (s.unbindMag).gainXy = Config.freeGain s.draws := rfl
@[simp] theorem State.unbindMag_gainZ : (s.unbindMag).gainZ = Config.freeGain (s.draws + 1) := rfl
@[simp] theorem State.unbindMag_commandPort : (s.unbindMag).commandPort = s.commandPort := rfl
@[simp] theorem State.unbindMag_history : (s.unbindMag).history = s.history := rfl
@[simp] theorem State.unbindMag_responses : (s.unbindMag).responses = s.responses := rfl
@[simp] theorem State.unbindMag_hostInputs : (s.unbindMag).hostInputs = s.hostInputs := rfl
@[simp] theorem State.unbindMag_replies : (s.unbindMag).replies = s.replies := rfl
@[simp] theorem State.unbindMag_calls : (s.unbindMag).calls = s.calls := rfl
@[simp] theorem State.unbindMag_timerReplies : (s.unbindMag).timerReplies = s.timerReplies := rfl
@[simp] theorem State.unbindMag_delays : (s.unbindMag).delays = s.delays := rfl
@[simp] theorem State.unbindMag_draws : (s.unbindMag).draws = s.draws + 2 := rfl

/-! ### `State.setPhase` -/

@[simp] theorem State.setPhase_cfg (ph : Phase) : (s.setPhase ph).cfg = s.cfg := rfl
@[simp] theorem State.setPhase_phase (ph : Phase) : (s.setPhase ph).phase = ph := rfl
@[simp] theorem State.setPhase_gainValid (ph : Phase) : (s.setPhase ph).gainValid = s.gainValid := rfl
@[simp] theorem State.setPhase_gainXy (ph : Phase) : (s.setPhase ph).gainXy = s.gainXy := rfl
@[simp] theorem State.setPhase_gainZ (ph : Phase) : (s.setPhase ph).gainZ = s.gainZ := rfl
@[simp] theorem State.setPhase_commandPort (ph : Phase) : (s.setPhase ph).commandPort = s.commandPort := rfl
@[simp] theorem State.setPhase_history (ph : Phase) : (s.setPhase ph).history = s.history := rfl
@[simp] theorem State.setPhase_responses (ph : Phase) : (s.setPhase ph).responses = s.responses := rfl
@[simp] theorem State.setPhase_hostInputs (ph : Phase) : (s.setPhase ph).hostInputs = s.hostInputs := rfl
@[simp] theorem State.setPhase_replies (ph : Phase) : (s.setPhase ph).replies = s.replies := rfl
@[simp] theorem State.setPhase_calls (ph : Phase) : (s.setPhase ph).calls = s.calls := rfl
@[simp] theorem State.setPhase_timerReplies (ph : Phase) : (s.setPhase ph).timerReplies = s.timerReplies := rfl
@[simp] theorem State.setPhase_delays (ph : Phase) : (s.setPhase ph).delays = s.delays := rfl
@[simp] theorem State.setPhase_draws (ph : Phase) : (s.setPhase ph).draws = s.draws := rfl

/-! ### `State.commitGains` -/

@[simp] theorem State.commitGains_cfg (g : BitVec 11 × BitVec 11) : (s.commitGains g).cfg = s.cfg := rfl
@[simp] theorem State.commitGains_phase (g : BitVec 11 × BitVec 11) : (s.commitGains g).phase = .enabled := rfl
@[simp] theorem State.commitGains_gainValid (g : BitVec 11 × BitVec 11) : (s.commitGains g).gainValid = true := rfl
@[simp] theorem State.commitGains_gainXy (g : BitVec 11 × BitVec 11) : (s.commitGains g).gainXy = g.1 := rfl
@[simp] theorem State.commitGains_gainZ (g : BitVec 11 × BitVec 11) : (s.commitGains g).gainZ = g.2 := rfl
@[simp] theorem State.commitGains_commandPort (g : BitVec 11 × BitVec 11) : (s.commitGains g).commandPort = s.commandPort := rfl
@[simp] theorem State.commitGains_history (g : BitVec 11 × BitVec 11) : (s.commitGains g).history = s.history := rfl
@[simp] theorem State.commitGains_responses (g : BitVec 11 × BitVec 11) : (s.commitGains g).responses = s.responses := rfl
@[simp] theorem State.commitGains_hostInputs (g : BitVec 11 × BitVec 11) : (s.commitGains g).hostInputs = s.hostInputs := rfl
@[simp] theorem State.commitGains_replies (g : BitVec 11 × BitVec 11) : (s.commitGains g).replies = s.replies := rfl
@[simp] theorem State.commitGains_calls (g : BitVec 11 × BitVec 11) : (s.commitGains g).calls = s.calls := rfl
@[simp] theorem State.commitGains_timerReplies (g : BitVec 11 × BitVec 11) : (s.commitGains g).timerReplies = s.timerReplies := rfl
@[simp] theorem State.commitGains_delays (g : BitVec 11 × BitVec 11) : (s.commitGains g).delays = s.delays := rfl
@[simp] theorem State.commitGains_draws (g : BitVec 11 × BitVec 11) : (s.commitGains g).draws = s.draws := rfl

/-! ### `State.takeInput` -/

@[simp] theorem State.takeInput_cfg : (s.takeInput).cfg = s.cfg := rfl
@[simp] theorem State.takeInput_phase : (s.takeInput).phase = s.phase := rfl
@[simp] theorem State.takeInput_gainValid : (s.takeInput).gainValid = s.gainValid := rfl
@[simp] theorem State.takeInput_gainXy : (s.takeInput).gainXy = s.gainXy := rfl
@[simp] theorem State.takeInput_gainZ : (s.takeInput).gainZ = s.gainZ := rfl
@[simp] theorem State.takeInput_commandPort : (s.takeInput).commandPort = s.commandPort := rfl
@[simp] theorem State.takeInput_history : (s.takeInput).history = s.history := rfl
@[simp] theorem State.takeInput_responses : (s.takeInput).responses = s.responses := rfl
@[simp] theorem State.takeInput_hostInputs : (s.takeInput).hostInputs = s.hostInputs.tail := rfl
@[simp] theorem State.takeInput_replies : (s.takeInput).replies = s.replies := rfl
@[simp] theorem State.takeInput_calls : (s.takeInput).calls = s.calls := rfl
@[simp] theorem State.takeInput_timerReplies : (s.takeInput).timerReplies = s.timerReplies := rfl
@[simp] theorem State.takeInput_delays : (s.takeInput).delays = s.delays := rfl
@[simp] theorem State.takeInput_draws : (s.takeInput).draws = s.draws := rfl

/-! ### `State.takeReset` -/

@[simp] theorem State.takeReset_cfg : (s.takeReset).cfg = s.cfg := rfl
@[simp] theorem State.takeReset_phase : (s.takeReset).phase = s.phase := rfl
@[simp] theorem State.takeReset_gainValid : (s.takeReset).gainValid = s.gainValid := rfl
@[simp] theorem State.takeReset_gainXy : (s.takeReset).gainXy = s.gainXy := rfl
@[simp] theorem State.takeReset_gainZ : (s.takeReset).gainZ = s.gainZ := rfl
@[simp] theorem State.takeReset_commandPort : (s.takeReset).commandPort = s.commandPort := rfl
@[simp] theorem State.takeReset_history : (s.takeReset).history = s.history := rfl
@[simp] theorem State.takeReset_responses : (s.takeReset).responses = s.responses := rfl
@[simp] theorem State.takeReset_hostInputs : (s.takeReset).hostInputs = s.hostInputs.erase .reset := rfl
@[simp] theorem State.takeReset_replies : (s.takeReset).replies = s.replies := rfl
@[simp] theorem State.takeReset_calls : (s.takeReset).calls = s.calls := rfl
@[simp] theorem State.takeReset_timerReplies : (s.takeReset).timerReplies = s.timerReplies := rfl
@[simp] theorem State.takeReset_delays : (s.takeReset).delays = s.delays := rfl
@[simp] theorem State.takeReset_draws : (s.takeReset).draws = s.draws := rfl

/-! ### `State.accept` -/

@[simp] theorem State.accept_cfg : (s.accept).cfg = s.cfg := rfl
@[simp] theorem State.accept_phase : (s.accept).phase = s.phase := rfl
@[simp] theorem State.accept_gainValid : (s.accept).gainValid = s.gainValid := rfl
@[simp] theorem State.accept_gainXy : (s.accept).gainXy = s.gainXy := rfl
@[simp] theorem State.accept_gainZ : (s.accept).gainZ = s.gainZ := rfl
@[simp] theorem State.accept_commandPort : (s.accept).commandPort = .busy := rfl
@[simp] theorem State.accept_history : (s.accept).history = s.history := rfl
@[simp] theorem State.accept_responses : (s.accept).responses = s.responses := rfl
@[simp] theorem State.accept_hostInputs : (s.accept).hostInputs = s.hostInputs.tail := rfl
@[simp] theorem State.accept_replies : (s.accept).replies = s.replies := rfl
@[simp] theorem State.accept_calls : (s.accept).calls = s.calls := rfl
@[simp] theorem State.accept_timerReplies : (s.accept).timerReplies = s.timerReplies := rfl
@[simp] theorem State.accept_delays : (s.accept).delays = s.delays := rfl
@[simp] theorem State.accept_draws : (s.accept).draws = s.draws := rfl

/-! ### `State.resetInput` -/

@[simp] theorem State.resetInput_cfg : (s.resetInput).cfg = s.cfg := rfl
@[simp] theorem State.resetInput_phase : (s.resetInput).phase = .unbound := rfl
@[simp] theorem State.resetInput_gainValid : (s.resetInput).gainValid = false := rfl
@[simp] theorem State.resetInput_gainXy : (s.resetInput).gainXy = Config.freeGain s.draws := rfl
@[simp] theorem State.resetInput_gainZ : (s.resetInput).gainZ = Config.freeGain (s.draws + 1) := rfl
@[simp] theorem State.resetInput_commandPort : (s.resetInput).commandPort = .idle := rfl
@[simp] theorem State.resetInput_history : (s.resetInput).history = [] := rfl
@[simp] theorem State.resetInput_responses : (s.resetInput).responses = s.responses := rfl
@[simp] theorem State.resetInput_hostInputs : (s.resetInput).hostInputs = s.hostInputs := rfl
@[simp] theorem State.resetInput_replies : (s.resetInput).replies = s.replies := rfl
@[simp] theorem State.resetInput_calls : (s.resetInput).calls = s.calls := rfl
@[simp] theorem State.resetInput_timerReplies : (s.resetInput).timerReplies = s.timerReplies := rfl
@[simp] theorem State.resetInput_delays : (s.resetInput).delays = s.delays := rfl
@[simp] theorem State.resetInput_draws : (s.resetInput).draws = s.draws + 2 := rfl

/-! ### `State.present` -/

@[simp] theorem State.present_cfg (cw : CommandWord) : (s.present cw).cfg = s.cfg := rfl
@[simp] theorem State.present_phase (cw : CommandWord) : (s.present cw).phase = s.phase := rfl
@[simp] theorem State.present_gainValid (cw : CommandWord) : (s.present cw).gainValid = s.gainValid := rfl
@[simp] theorem State.present_gainXy (cw : CommandWord) : (s.present cw).gainXy = s.gainXy := rfl
@[simp] theorem State.present_gainZ (cw : CommandWord) : (s.present cw).gainZ = s.gainZ := rfl
@[simp] theorem State.present_commandPort (cw : CommandWord) : (s.present cw).commandPort = .idle := rfl
@[simp] theorem State.present_history (cw : CommandWord) : (s.present cw).history = s.history := rfl
@[simp] theorem State.present_responses (cw : CommandWord) : (s.present cw).responses = s.responses := rfl
@[simp] theorem State.present_hostInputs (cw : CommandWord) : (s.present cw).hostInputs = .command cw :: s.hostInputs := rfl
@[simp] theorem State.present_replies (cw : CommandWord) : (s.present cw).replies = s.replies := rfl
@[simp] theorem State.present_calls (cw : CommandWord) : (s.present cw).calls = s.calls := rfl
@[simp] theorem State.present_timerReplies (cw : CommandWord) : (s.present cw).timerReplies = s.timerReplies := rfl
@[simp] theorem State.present_delays (cw : CommandWord) : (s.present cw).delays = s.delays := rfl
@[simp] theorem State.present_draws (cw : CommandWord) : (s.present cw).draws = s.draws := rfl

end Sys2Proof.Machine
end

