-- ==== Sys2Proof/Laws/Ops.lean ====
section
/-! SUPPORT. What the shared operations can do, said once: the three ends of a port call and the two of a delay, the
port's answers after an update, and how a property is carried through a call. -/

namespace Sys2Proof.Machine

/-! ### Responses -/

@[simp] theorem State.respondOk_eq (s : State) (p : Payload) : s.respondOk p = s.deliver ⟨.ok, none, p⟩ := rfl

@[simp] theorem State.raise_eq (s : State) (st : Status) : s.raise st = s.deliver ⟨st, none, .none⟩ := rfl

@[simp] theorem State.raiseTransport_eq (s : State) (e : PortError) :
    s.raiseTransport e = s.deliver ⟨.transportError, some e, .none⟩ := rfl

@[simp] theorem State.respondFree_eq (s : State) :
    s.respondFree = { s with draws := s.draws + 3 }.deliver ⟨.ok, none, s.freePayload⟩ := rfl

/-! ### The port's coming answers -/

@[simp] theorem State.portReply_record (s : State) (ev : Event) (j : Nat) :
    (s.record ev).portReply j = s.portReply j := rfl

@[simp] theorem State.portReply_unbindMag (s : State) (j : Nat) : s.unbindMag.portReply j = s.portReply j := rfl

@[simp] theorem State.portReply_setPhase (s : State) (ph : Phase) (j : Nat) :
    (s.setPhase ph).portReply j = s.portReply j := rfl

@[simp] theorem State.portReply_accept (s : State) (j : Nat) : s.accept.portReply j = s.portReply j := rfl

@[simp] theorem State.timerReply_record (s : State) (ev : Event) : (s.record ev).timerReply = s.timerReply := rfl

@[simp] theorem State.timerReply_afterCall (s : State) : s.afterCall.timerReply = s.timerReply := rfl

/-- Using up an answer moves every later one forward by one place. -/
@[simp] theorem State.portReply_afterCall (s : State) (j : Nat) : s.afterCall.portReply j = s.portReply (j + 1) := by
  cases h : s.replies <;>
    simp [State.portReply, State.afterCall, h, Nat.add_assoc, Nat.add_comm 1 j]

/-! ### A port call -/

section call

variable {α : Type} {event : CallResult α → Event} {value : Byte → Byte → Byte → α} {s : State} {k : α → State → State}

theorem portCall_completes {b0 b1 b2 : Byte} (h : s.portReply 0 = .completes b0 b1 b2) :
    portCall event value s k = k (value b0 b1 b2) (s.afterCall.record (event (.value (value b0 b1 b2)))) := by
  simp [portCall, h]

theorem portCall_fails {e : PortError} (h : s.portReply 0 = .fails e) :
    portCall event value s k = (s.afterCall.record (event (.err e))).raiseTransport e := by
  simp [portCall, h]

theorem portCall_stalls (h : s.portReply 0 = .stalls) :
    portCall event value s k = (s.afterCall.record (event .noAnswer)).hang := by
  simp [portCall, h]

/-- Everything a port call can do. -/
theorem portCall_cases :
    (∃ b0 b1 b2, s.portReply 0 = .completes b0 b1 b2 ∧
      portCall event value s k = k (value b0 b1 b2) (s.afterCall.record (event (.value (value b0 b1 b2))))) ∨
    (∃ e, s.portReply 0 = .fails e ∧
      portCall event value s k = (s.afterCall.record (event (.err e))).raiseTransport e) ∨
    (s.portReply 0 = .stalls ∧ portCall event value s k = (s.afterCall.record (event .noAnswer)).hang) := by
  cases h : s.portReply 0 with
  | completes b0 b1 b2 => exact .inl ⟨b0, b1, b2, rfl, portCall_completes h⟩
  | fails e => exact .inr (.inl ⟨e, rfl, portCall_fails h⟩)
  | stalls => exact .inr (.inr ⟨rfl, portCall_stalls h⟩)

/-- A property of the state in which a call ends: it holds if it holds of the failed and of the hanging call, and of
whatever the operation goes on to. -/
theorem portCall_of {P : State → Prop}
    (hok : ∀ b0 b1 b2, s.portReply 0 = .completes b0 b1 b2 →
      P (k (value b0 b1 b2) (s.afterCall.record (event (.value (value b0 b1 b2))))))
    (herr : ∀ e, P ((s.afterCall.record (event (.err e))).raiseTransport e))
    (hhang : P (s.afterCall.record (event .noAnswer)).hang) : P (portCall event value s k) := by
  obtain ⟨b0, b1, b2, h, heq⟩ | ⟨e, _, heq⟩ | ⟨_, heq⟩ :=
    portCall_cases (event := event) (value := value) (s := s) (k := k)
  · exact heq ▸ hok b0 b1 b2 h
  · exact heq ▸ herr e
  · exact heq ▸ hhang

end call

/-! ### The settle delay -/

theorem portDelay_expires {ms : Nat} {s : State} {k : State → State} (h : s.timerReply = .expires) :
    portDelay ms s k = k (s.afterDelay.record (.delay ms)) := by
  simp [portDelay, h]

theorem portDelay_never {ms : Nat} {s : State} {k : State → State} (h : s.timerReply = .never) :
    portDelay ms s k = (s.afterDelay.record (.delay ms)).hang := by
  simp [portDelay, h]

/-- A property of the state in which a delay ends: it holds if it holds of the delay that never expires, and of whatever
the operation goes on to. -/
theorem portDelay_of {ms : Nat} {s : State} {k : State → State} {P : State → Prop}
    (hok : P (k (s.afterDelay.record (.delay ms)))) (hhang : P (s.afterDelay.record (.delay ms)).hang) :
    P (portDelay ms s k) := by
  cases h : s.timerReply with
  | expires => exact portDelay_expires h ▸ hok
  | never => exact portDelay_never h ▸ hhang

end Sys2Proof.Machine
end

