-- ==== Sys2Proof/Laws/Mag.lean ====
section
/-! SUPPORT. The phase check of the magnetometer operations and the gain table's key, said once. -/

namespace Sys2Proof.Machine

theorem constructed_unbound {s : State} {k : State → State} (h : s.phase = .unbound) :
    constructed s k = s.raise .notConstructed := if_pos h

theorem constructed_bound {s : State} {k : State → State} (h : s.phase ≠ .unbound) : constructed s k = k s := if_neg h

theorem magRangeValid_iff {range : Int} : magRangeValid range = true ↔ 1 ≤ range ∧ range < 8 := by
  simp [magRangeValid]

theorem magRateValid_iff {rate : Int} : magRateValid rate = true ↔ 0 ≤ rate ∧ rate < 7 := by
  simp [magRateValid]

/-- A range code out of 1..7 has no key. -/
theorem magRangeKey_none {range : Int} (h : magRangeValid range = false) : magRangeKey range = none := by
  simp [magRangeKey, h]

/-- A range code in 1..7 has the key one below it. -/
theorem magRangeKey_some {range : Int} (h : magRangeValid range = true) :
    ∃ key : Fin 7, magRangeKey range = some key ∧ (key : Int) = range - 1 := by
  obtain ⟨h1, h2⟩ := magRangeValid_iff.mp h
  refine ⟨⟨(range - 1).toNat, by omega⟩, by simp [magRangeKey, h], ?_⟩
  change (((range - 1).toNat : Nat) : Int) = range - 1
  omega

/-- The table's pairs are the pairs of its list. -/
theorem magGainLut_mem (key : Fin 7) : magGainLut key ∈ magGainTable.toList := by
  revert key; decide

end Sys2Proof.Machine
end

