-- ==== Sys2Proof/Laws/Exec.lean ====
section
/-! SUPPORT. What every operation can do to a state, said once: a property that the shared operations keep is kept by
`exec`. -/

namespace Sys2Proof.Machine

/-- A property that each update an operation can make of a state keeps. -/
structure KeptByUpdates (P : State → Prop) : Prop where
  record : ∀ s ev, P s → P (s.record ev)
  deliver : ∀ s r, P s → P (s.deliver r)
  hang : ∀ s, P s → P s.hang
  afterCall : ∀ s, P s → P s.afterCall
  afterDelay : ∀ s, P s → P s.afterDelay
  draw : ∀ s, P s → P { s with draws := s.draws + 3 }

namespace KeptByUpdates

variable {P : State → Prop} (hP : KeptByUpdates P)
include hP

theorem call {α : Type} {event : CallResult α → Event} {value : Byte → Byte → Byte → α} {s : State}
    {k : α → State → State} (hs : P s) (hk : ∀ a s', P s' → P (k a s')) : P (portCall event value s k) :=
  portCall_of (fun _ _ _ _ => hk _ _ (hP.record _ _ (hP.afterCall _ hs)))
    (fun _ => hP.deliver _ _ (hP.record _ _ (hP.afterCall _ hs))) (hP.hang _ (hP.record _ _ (hP.afterCall _ hs)))

theorem delay {ms : Nat} {s : State} {k : State → State} (hs : P s) (hk : ∀ s', P s' → P (k s')) :
    P (portDelay ms s k) :=
  portDelay_of (hk _ (hP.record _ _ (hP.afterDelay _ hs))) (hP.hang _ (hP.record _ _ (hP.afterDelay _ hs)))

theorem phaseCheck {s : State} {k : State → State} (hs : P s) (hk : P (k s)) : P (constructed s k) := by
  by_cases h : s.phase = .unbound
  · exact constructed_unbound h ▸ hP.deliver _ _ hs
  · exact constructed_bound h ▸ hk

theorem respondFree {s : State} (hs : P s) : P s.respondFree := hP.deliver _ _ (hP.draw _ hs)

end KeptByUpdates

/-- Every operation answers a next state. -/
theorem exec_next (i : Instr) (s : State) : ∃ t, exec i s = .next t := by
  cases i <;> exact ⟨_, rfl⟩

/-- The operations that write no MAG state keep every property that the shared updates keep. -/
theorem exec_keeps {P : State → Prop} (hP : KeptByUpdates P) {i : Instr} {s t : State}
    (hi : i ≠ .magInit ∧ (∀ rate range, i ≠ .magEnable rate range) ∧ i ≠ .magDisable) (hs : P s)
    (h : exec i s = .next t) : P t := by
  cases i with
  | magInit => exact absurd rfl hi.1
  | magEnable rate range => exact absurd rfl (hi.2.1 rate range)
  | magDisable => exact absurd rfl hi.2.2
  | accEnable rate range =>
    simp only [exec, execAccEnable, Host.Outcome.next.injEq] at h
    subst h
    split_ifs
    · exact hP.deliver _ _ hs
    · exact hP.deliver _ _ hs
    · exact hP.call hs fun _ _ h1 => hP.call h1 fun _ _ h2 => hP.delay h2 fun _ h3 => hP.deliver _ _ h3
  | accDisable =>
    simp only [exec, execAccDisable, Host.Outcome.next.injEq] at h
    subst h
    exact hP.call hs fun _ _ h1 => hP.deliver _ _ h1
  | accRead =>
    simp only [exec, execAccRead, Host.Outcome.next.injEq] at h
    subst h
    refine hP.call hs fun _ _ h1 => hP.call h1 fun _ _ h2 => hP.call h2 fun _ _ h3 => hP.call h3 fun _ _ h4 =>
      hP.call h4 fun _ _ h5 => hP.call h5 fun _ _ h6 => hP.call h6 fun _ _ h7 => ?_
    split
    · exact hP.deliver _ _ h7
    · exact hP.respondFree h7
  | accRdrange =>
    simp only [exec, execAccRdrange, Host.Outcome.next.injEq] at h
    subst h
    exact hP.call hs fun _ _ h1 => hP.deliver _ _ h1
  | magRead =>
    simp only [exec, execMagRead, Host.Outcome.next.injEq] at h
    subst h
    refine hP.phaseCheck hs (hP.call hs fun _ _ h1 => hP.call h1 fun _ _ h2 => hP.call h2 fun _ _ h3 => ?_)
    split
    · exact hP.deliver _ _ h3
    · exact hP.respondFree h3
  | magRdraw rawFlag =>
    simp only [exec, execMagRdraw, Host.Outcome.next.injEq] at h
    subst h
    refine hP.phaseCheck hs ?_
    split_ifs
    · exact hP.deliver _ _ hs
    · exact hP.call hs fun _ _ h1 => hP.call h1 fun _ _ h2 => hP.call h2 fun _ _ h3 => hP.deliver _ _ h3

end Sys2Proof.Machine
end

