-- ==== Sys2Proof/Laws/Operands.lean ====
section
/-! SUPPORT. The operand checks and the assembled sample, in plain arithmetic. -/

namespace Sys2Proof.Machine

theorem accRateValid_iff {p : Params} {rate : Int} :
    accRateValid p rate = true ↔ ∃ c ∈ p.accRateSet, (c.toNat : Int) = rate := by
  simp [accRateValid]

theorem accRangeValid_iff {p : Params} {range : Int} :
    accRangeValid p range = true ↔
      range = 0 ∨ range = p.accRange4G.toNat ∨ range = p.accRange8G.toNat := by
  simp only [accRangeValid, accRange2G, List.any_cons, List.any_nil, Bool.or_false, Bool.or_eq_true, beq_iff_eq]
  rw [show ((0#2).toNat : Int) = 0 from rfl]
  constructor <;> rintro (h | h | h) <;> simp [h]

/-- The OR of the shifted high byte and a nibble is their sum: their set bits are disjoint (R96). -/
theorem or_nibble (h : BitVec 8) (x : BitVec 4) :
    (BitVec.ofInt 12 (h.toInt <<< 4) ||| BitVec.ofInt 12 (x.toNat : Int)).toInt = 16 * h.toInt + x.toNat := by
  revert h x
  decide +kernel

/-- The codes an admissible configuration gives the ranges 4G and 8G. -/
theorem ranges_of_config (c : Config) :
    c.params.accRange4G ≠ 0#2 ∧ c.params.accRange8G ≠ 0#2 ∧ c.params.accRange4G ≠ c.params.accRange8G := by
  have h : c.params.rangesOk = true := by
    have := c.ok
    simp only [Params.admissible, Bool.and_eq_true] at this
    tauto
  simpa [Params.rangesOk, and_assoc] using h

end Sys2Proof.Machine
end

