-- ==== Sys2Proof/Laws/PerInstr.lean ====
section
/-! SUPPORT. For all instructions: the fields of an instruction's command word are its operation code and its operands,
and the reserved bits are zero (R60, R66). -/

namespace Sys2Proof.Laws.EncodedFields

/-- The word of an instruction holds its code, its flag and its operands' low bytes, and nothing in the reserved bits. -/
def Statement (i : Instr) : Prop :=
  opcField (encode i) = i.opc ∧ rawField (encode i) = i.rawFlag ∧
    (encode i).extractLsb' 8 8 = BitVec.ofInt 8 i.rate ∧ (encode i).extractLsb' 0 8 = BitVec.ofInt 8 i.range ∧
    (encode i).extractLsb' 17 7 = 0#7

theorem all (i : Instr) : Statement i := by simp [Statement, encode]

theorem accEnable (rate range : Int) : Statement (.accEnable rate range) := all _

theorem accDisable : Statement .accDisable := all _

theorem accRead : Statement .accRead := all _

theorem accRdrange : Statement .accRdrange := all _

theorem magInit : Statement .magInit := all _

theorem magEnable (rate range : Int) : Statement (.magEnable rate range) := all _

theorem magDisable : Statement .magDisable := all _

theorem magRead : Statement .magRead := all _

theorem magRdraw (rawFlag : Bool) : Statement (.magRdraw rawFlag) := all _

end Sys2Proof.Laws.EncodedFields
end

