-- ==== Sys2Proof/Tests/Slice0.lean ====
section
/-! SUPPORT. The model's own tests. Expected results come from 95_test_vectors.md and 30_encoding.md, and where none stands
there from the rule named. A `witness_` theorem shows that an obligation's hypotheses can be met together, each clause at
a boundary of its range. REF is the test vectors' parameter set. -/

namespace Sys2Proof.Tests

open Sys2Proof.Machine

/-! ## Small states -/

/-- A state under REF with coming port answers; the timer expires once. -/
def answering (phase : Phase) (replies : List PortReply) : State :=
  { State.reset with cfg := Config.reference, phase, replies, timerReplies := [.expires] }

/-- The same with gains loaded. -/
def gained (phase : Phase) (gains : BitVec 11 × BitVec 11) (replies : List PortReply) : State :=
  { answering phase replies with gainValid := true, gainXy := gains.1, gainZ := gains.2 }

/-- A call answered with one byte. -/
def byte (b : Byte) : PortReply := .completes b 0x00#8 0x00#8

/-- A call answered with two bytes, the more significant first. -/
def pair (b0 b1 : Byte) : PortReply := .completes b0 b1 0x00#8

/-- A write that completes. -/
def done : PortReply := byte 0x00#8

/-- The sample bytes of vector A15, then the range register. -/
def a15 (ctrl4 : Byte) : List PortReply :=
  [byte 0x00#8, byte 0x01#8, byte 0xF0#8, byte 0xFF#8, byte 0x30#8, byte 0xC0#8, byte ctrl4]

/-- The next state, if there is one. -/
def after (o : Host.Outcome State Fault Refusal) : Option State :=
  match o with
  | .next t => some t
  | .fault _ => none
  | .refused _ => none

/-! ## Well-formedness: an ill-formed term for each check -/

theorem test_operands_at_their_bounds_are_well_formed :
    (Instr.accEnable (-128) 127).wellFormed = true ∧ (Instr.magEnable 127 (-128)).wellFormed = true := by decide

theorem test_acc_rate_too_large : (Instr.accEnable 128 0).wellFormed = false := by decide
theorem test_acc_rate_too_small : (Instr.accEnable (-129) 0).wellFormed = false := by decide
theorem test_acc_range_too_large : (Instr.accEnable 0 128).wellFormed = false := by decide
theorem test_acc_range_too_small : (Instr.accEnable 0 (-129)).wellFormed = false := by decide
theorem test_mag_rate_too_large : (Instr.magEnable 128 1).wellFormed = false := by decide
theorem test_mag_rate_too_small : (Instr.magEnable (-129) 1).wellFormed = false := by decide
theorem test_mag_range_too_large : (Instr.magEnable 0 128).wellFormed = false := by decide
theorem test_mag_range_too_small : (Instr.magEnable 0 (-129)).wellFormed = false := by decide

/-! ## The constraints of R5, R40 and R43 on the parameters: a violation of each -/

theorem test_reference_is_admissible : Params.reference.admissible = true := by decide
theorem test_equal_accelerometer_addresses :
    { Params.reference with aCtrl4 := 0x20#8 }.accAddrsOk = false := by decide
theorem test_overlapping_magnetometer_registers :
    { Params.reference with mOutY := 0x04#8 }.magSpansOk = false := by decide
theorem test_identity_past_the_last_address : { Params.reference with mId := 0xFE#8 }.magSpansOk = false := by decide
theorem test_identity_ending_at_the_last_address :
    { Params.reference with mId := 0xFD#8 }.magSpansOk = true := by decide
theorem test_equal_bus_addresses : { Params.reference with magDevAddr := 0x18#7 }.devAddrsOk = false := by decide
theorem test_eight_rates :
    { Params.reference with accRateSet := [4#5, 5#5, 6#5, 7#5, 8#5, 12#5, 16#5, 20#5] }.rateSetOk = false := by decide
theorem test_rate_100hz_outside_the_set : { Params.reference with accRate100Hz := 9#5 }.rateSetOk = false := by decide
theorem test_range_4g_zero : { Params.reference with accRange4G := 0#2 }.rangesOk = false := by decide
theorem test_range_8g_zero : { Params.reference with accRange8G := 0#2 }.rangesOk = false := by decide
theorem test_equal_range_codes : { Params.reference with accRange8G := 1#2 }.rangesOk = false := by decide
theorem test_disable_byte_with_a_rate : { Params.reference with accCtrl1Disable := 0x08#8 }.disableByteOk = false := by
  decide
theorem test_equal_mode_bytes : { Params.reference with magModeSleep := 0x00#8 }.modesOk = false := by decide

/-! ## Decoding: words of 30_encoding.md and of vector table 2.6 -/

theorem test_decode_acc_enable : decodeWord 0x10000703#32 = .ok (.accEnable 7 3) := by decide
theorem test_decode_acc_enable_negative_rate : decodeWord 0x1000FF00#32 = .ok (.accEnable (-1) 0) := by decide
theorem test_decode_acc_disable : decodeWord 0x11000000#32 = .ok .accDisable := by decide
theorem test_decode_acc_read : decodeWord 0x12000000#32 = .ok .accRead := by decide
theorem test_decode_acc_rdrange : decodeWord 0x13000000#32 = .ok .accRdrange := by decide
theorem test_decode_mag_init : decodeWord 0x20000000#32 = .ok .magInit := by decide
theorem test_decode_mag_enable : decodeWord 0x21000401#32 = .ok (.magEnable 4 1) := by decide
theorem test_decode_mag_enable_negative_rate : decodeWord 0x2100FF08#32 = .ok (.magEnable (-1) 8) := by decide
theorem test_decode_mag_disable : decodeWord 0x22000000#32 = .ok .magDisable := by decide
theorem test_decode_mag_read : decodeWord 0x23000000#32 = .ok .magRead := by decide
theorem test_decode_mag_rdraw : decodeWord 0x24010000#32 = .ok (.magRdraw true) := by decide
theorem test_decode_mag_rdraw_unasserted : decodeWord 0x24000000#32 = .ok (.magRdraw false) := by decide
theorem test_decode_rejects_by_name :
    decodeWord 0x11000001#32 = .error .reservedBits ∧ decodeWord 0x24020000#32 = .error .reservedBits ∧
    decodeWord 0x21010001#32 = .error .reservedBits ∧ decodeWord 0x14000000#32 = .error .unassignedOpcode ∧
    decodeWord 0x00000000#32 = .error .unassignedOpcode ∧ decodeWord 0xFFFFFFFF#32 = .error .unassignedOpcode ∧
    decodeWord 0x30000000#32 = .error .unassignedOpcode := by decide
theorem test_encode_negative_operands : encode (.magEnable (-1) 8) = 0x2100FF08#32 := by decide
theorem test_decode_table_word : decodeTableWord 32 0x24010000 = some (.magRdraw true) := by decide

/-! ## Datapath: vector tables 2.1 to 2.5 -/

/-- Sign extension of the high byte, the OR on a negative high part, the extremes. -/
theorem test_sample_assembly :
    accAssemble (valueI8 0xFF#8 0 0) (valueU8 0x00#8 0 0) = -16 ∧
    accAssemble (valueI8 0x80#8 0 0) (valueU8 0xFF#8 0 0) = -2033 ∧
    accAssemble (valueI8 0x7F#8 0 0) (valueU8 0xFF#8 0 0) = 2047 ∧
    accAssemble (valueI8 0x01#8 0 0) (valueU8 0x2F#8 0 0) = 18 := by decide

theorem test_range_field :
    accRangeField (valueU8 0xCF#8 0 0) = 0#2 ∧ accRangeField (valueU8 0x9F#8 0 0) = 1#2 ∧
    accRangeField (valueU8 0xFF#8 0 0) = 3#2 := by decide

/-- The same byte under REF and under REF-B. -/
theorem test_gain_follows_the_range_parameter :
    accGain Params.reference 3#2 = some float3p9 ∧ accGain Params.reference 2#2 = none ∧
    accGain { Params.reference with accRange8G := 2#2 } 2#2 = some float3p9 ∧
    accGain { Params.reference with accRange8G := 2#2 } 3#2 = none := by decide

theorem test_acc_scale :
    accScale 16 float1 = 0x3FC4158248443C70#64 ∧ accScale (-1021) float3p9 = 0xC0438648E5974908#64 ∧
    accScale (-2048) float2 = 0xC044158248443C70#64 ∧ accScale 0 float3p9 = 0#64 := by decide +kernel

theorem test_mag_scale :
    magScale 1000 1055#11 = 0x4057B259C83087E3#64 ∧ magScale (-32768) 205#11 = 0xC0CF3831F3831F38#64 ∧
    magScale 1055 950#11 = 0x405BC35E50D79436#64 := by decide +kernel

theorem test_saturation_is_exact :
    magConvert (-4096) 1055#11 = 0x7FF0000000000000#64 ∧ magConvert (-4095) 1055#11 = 0xC078426D31BE7BC1#64 ∧
    magConvert (-4097) 205#11 = 0xC09F3A2576A2576A#64 ∧ magConvert 4096 230#11 = 0x409BD37A6F4DE9BD#64 := by
  decide +kernel

/-! ## Operations: vector tables 2.7 and 2.8, one operation each -/

/-- A2. -/
theorem test_acc_enable :
    (after (exec (.accEnable 24 1) (answering .unbound [done, done]))).map (fun t => (t.history, t.responses)) =
      some ([.w8 .acc 0x20#8 0xC7#8 (.value ()), .w8 .acc 0x23#8 0x10#8 (.value ()), .delay 10],
        [⟨.ok, none, .none⟩]) := by decide

/-- A10: the second write fails. -/
theorem test_acc_enable_second_write_fails :
    (after (exec (.accEnable 5 0) (answering .unbound [done, .fails ⟨3⟩]))).map (fun t => (t.history, t.responses)) =
      some ([.w8 .acc 0x20#8 0x2F#8 (.value ()), .w8 .acc 0x23#8 0x00#8 (.err ⟨3⟩)],
        [⟨.transportError, some ⟨3⟩, .none⟩]) := by decide

/-- A11. -/
theorem test_acc_disable :
    (after (exec .accDisable (answering .unbound [done]))).map (fun t => (t.history, t.responses)) =
      some ([.w8 .acc 0x20#8 0x00#8 (.value ())], [⟨.ok, none, .none⟩]) := by decide

/-- A15: the payload. -/
theorem test_acc_read_payload :
    (after (exec .accRead (answering .unbound (a15 0x00#8)))).map State.responses =
      some [⟨.ok, none, .three 0x3FC4158248443C70#64 0xBF84158248443C70#64 0xC0240672268E0943#64⟩] := by decide +kernel

/-- A19: the third read fails. -/
theorem test_acc_read_third_read_fails :
    (after (exec .accRead (answering .unbound [byte 0x00#8, byte 0x01#8, .fails ⟨9⟩]))).map
        (fun t => (t.history, t.responses)) =
      some ([.r8u .acc 0x28#8 (.value 0), .r8s .acc 0x29#8 (.value 1), .r8u .acc 0x2A#8 (.err ⟨9⟩)],
        [⟨.transportError, some ⟨9⟩, .none⟩]) := by decide

/-- A14. -/
theorem test_acc_rdrange :
    (after (exec .accRdrange (answering .unbound [byte 0xFF#8]))).map State.responses =
      some [⟨.ok, none, .one 3#64⟩] := by decide

/-- M1. -/
theorem test_mag_init :
    (after (exec .magInit (answering .unbound [.completes 0x48#8 0x34#8 0x33#8]))).map
        (fun t => (t.history, t.phase, t.gainValid)) =
      some ([.r24be .mag 0x0A#8 (.value 0x483433)], .disabled, false) := by decide

/-- M3 from ENABLED: the identity in the wrong byte order. -/
theorem test_mag_init_reversed_identity :
    (after (exec .magInit (gained .enabled (430#11, 385#11) [.completes 0x33#8 0x34#8 0x48#8]))).map
        (fun t => (t.responses, t.phase, t.gainValid)) =
      some ([⟨.unrecognizedDevice, none, .none⟩], .unbound, false) := by decide

/-- M11. -/
theorem test_mag_enable :
    (after (exec (.magEnable 6 7) (answering .disabled [done, done, done]))).map (fun t => (t.history, t.mag)) =
      some ([.w8 .mag 0x00#8 0x18#8 (.value ()), .w8 .mag 0x01#8 0xE0#8 (.value ()), .w8 .mag 0x02#8 0x00#8 (.value ())],
        ⟨.enabled, true, 230#11, 205#11⟩) := by decide

/-- M18: the third write fails and the old gains stay. -/
theorem test_mag_enable_third_write_fails :
    (after (exec (.magEnable 0 7) (gained .enabled (1055#11, 950#11) [done, done, .fails ⟨1⟩]))).map State.mag =
      some ⟨.enabled, true, 1055#11, 950#11⟩ := by decide

/-- M30. -/
theorem test_mag_disable :
    (after (exec .magDisable (gained .enabled (430#11, 385#11) [done]))).map (fun t => (t.history, t.mag)) =
      some ([.w8 .mag 0x02#8 0x03#8 (.value ())], ⟨.disabled, true, 430#11, 385#11⟩) := by decide

/-- M20. -/
theorem test_mag_read :
    (after (exec .magRead (gained .enabled (1055#11, 950#11) [pair 0xF0#8 0x00#8, pair 0x04#8 0x1F#8, pair 0x03#8 0xB6#8]))).map
        State.responses =
      some [⟨.ok, none, .three 0x7FF0000000000000#64 0x4059000000000000#64 0x4059000000000000#64⟩] := by decide +kernel

/-- M26: the second read fails. -/
theorem test_mag_read_second_read_fails :
    (after (exec .magRead (gained .enabled (1055#11, 950#11) [pair 0x00#8 0x64#8, .fails ⟨2⟩]))).map
        (fun t => (t.history, t.responses)) =
      some ([.r16be .mag 0x03#8 (.value 100), .r16be .mag 0x05#8 (.err ⟨2⟩)], [⟨.transportError, some ⟨2⟩, .none⟩]) := by
  decide

/-- M28: X, Z, Y, and no infinity. -/
theorem test_mag_rdraw :
    (after (exec (.magRdraw true)
        (gained .enabled (1055#11, 950#11) [pair 0xF0#8 0x00#8, pair 0xFC#8 0x4A#8, pair 0x04#8 0x1F#8]))).map
        (fun t => (t.history, t.responses)) =
      some ([.r16be .mag 0x03#8 (.value (-4096)), .r16be .mag 0x07#8 (.value (-950)), .r16be .mag 0x05#8 (.value 1055)],
        [⟨.ok, none, .three 0xFFFFFFFFFFFFF000#64 0xFFFFFFFFFFFFFC4A#64 0x000000000000041F#64⟩]) := by decide

/-- M29. -/
theorem test_mag_rdraw_unasserted :
    (after (exec (.magRdraw false) (answering .enabled []))).map (fun t => (t.history, t.responses)) =
      some ([], [⟨.invalidArgumentRaw, none, .none⟩]) := by decide

/-- R72: a step takes the word off the host's inputs, runs it and is idle again. -/
theorem test_step_runs_the_next_command :
    (after (step ({ answering .unbound [byte 0x10#8] with hostInputs := [.reset] }.withFetchWord 32 0x13000000))).map
        (fun t => (t.hostInputs, t.commandPort, t.responses)) =
      some ([.reset], .idle, [⟨.ok, none, .one 1#64⟩]) := by decide

/-- R172 and R190: a stalled write leaves SCP busy, and the reset input makes it idle. -/
theorem test_reset_ends_a_hang :
    (after (exec .accDisable { answering .unbound [.stalls] with hostInputs := [.reset] })).map
        (fun t => (t.commandPort, (after (step t)).map State.commandPort)) =
      some (.busy, some .idle) := by decide

/-- R72 and R190: a reset is obeyed although a command word waits before it at the busy port. -/
theorem test_reset_passes_a_waiting_command :
    (after (step { answering .enabled [] with
        commandPort := .busy, hostInputs := [.command 0x11000000#32, .reset] })).map
        (fun t => (t.phase, t.commandPort, t.hostInputs)) =
      some (.unbound, .idle, [.command 0x11000000#32]) := by decide

/-! ## Witnesses: command words and steps -/

theorem witness_DecodeOfEncodeGivesTheInstruction :
    (Instr.accEnable (-128) 127).wellFormed = true ∧ (Instr.magRdraw true).wellFormed = true := by decide

theorem witness_EncodeOfDecodeGivesTheWord :
    decodeWord 0x1000807F#32 = .ok (.accEnable (-128) 127) ∧ decodeWord 0x24010000#32 = .ok (.magRdraw true) := by decide

/-- Each clause at the lowest and the highest bit it speaks of, operation codes next to the excepted ones. -/
theorem witness_ReservedBitsMakeAWordIllegal :
    ((0x24020000#32).extractLsb' 17 7 ≠ 0#7 ∧ (0x24800000#32).extractLsb' 17 7 ≠ 0#7) ∧
    ((0x23010000#32).getLsbD 16 = true ∧ (0x23010000#32).extractLsb' 24 8 ≠ 0x24#8) ∧
    ((0x11000001#32).extractLsb' 0 16 ≠ 0#16 ∧ (0x11000001#32).extractLsb' 24 8 ≠ 0x10#8 ∧
      (0x11000001#32).extractLsb' 24 8 ≠ 0x21#8) ∧
    ((0x22008000#32).extractLsb' 0 16 ≠ 0#16 ∧ (0x22008000#32).extractLsb' 24 8 ≠ 0x10#8 ∧
      (0x22008000#32).extractLsb' 24 8 ≠ 0x21#8) := by decide

/-- A state the host presents one input to. -/
def presented (phase : Phase) (port : CommandPort) (input : HostInput) : State :=
  { answering phase [done, done, done] with hostInputs := [input], commandPort := port }

theorem witness_StepRunsTheDecodedInstruction :
    (presented .unbound .idle (.command 0x10000500#32)).hostInputs = .command 0x10000500#32 :: [] ∧
    (presented .unbound .idle (.command 0x10000500#32)).commandPort = .idle ∧
    decodeWord 0x10000500#32 = .ok (.accEnable 5 0) := by decide

theorem witness_IllegalCommandIsAnsweredAndChangesNothing :
    (presented .unbound .idle (.command 0x24020000#32)).hostInputs = .command 0x24020000#32 :: [] ∧
    (presented .unbound .idle (.command 0x24020000#32)).commandPort = .idle ∧
    ∀ r ∈ opcodeTable, 0x24020000#32 &&& r.mask ≠ r.mtch := by decide

theorem witness_BusyOrUnaskedMachineStaysAsItIs :
    (answering .enabled []).hostInputs = [] ∧
    (presented .unbound .busy (.command 0x11000000#32)).hostInputs = .command 0x11000000#32 :: [] ∧
    (presented .unbound .busy (.command 0x11000000#32)).commandPort = .busy ∧ HostInput.reset ∉ [] := by decide

theorem witness_ResetInputLeavesTheResetMagState :
    (presented .enabled .busy .reset).hostInputs = .reset :: [] ∧
    ({ answering .enabled [] with commandPort := .busy, hostInputs := [.command 0x11000000#32, .reset] }.commandPort =
        .busy ∧ HostInput.reset ∈ [HostInput.reset] ∧
      { answering .enabled [] with commandPort := .busy, hostInputs := [.command 0x11000000#32, .reset] }.hostInputs =
        .command 0x11000000#32 :: [HostInput.reset]) := by decide

/-- The range 7 row, ENABLED: the premises of the invariant's two statements. -/
theorem enabled_state_meets_the_invariant (replies : List PortReply) :
    (gained .enabled (230#11, 205#11) replies).MagInv := by
  have inTable : (230#11, 205#11) ∈ magGainTable.toList := by decide
  have legal : Phase.enabled.code ≠ 3#2 := by decide
  exact ⟨fun _ => rfl, fun _ => inTable, (fun h => by cases h), legal⟩

theorem witness_OperationsPreserveAndResetEstablishTheMagInvariants :
    (∃ t, (presented .enabled .busy .reset).hostInputs = .reset :: [] ∧ step (presented .enabled .busy .reset) = .next t) ∧
    (∃ s t, s.MagInv ∧ s.phase = .enabled ∧ exec (.magEnable 0 1) s = .next t) ∧
    ∃ s : State, s.MagInv ∧ s.gainValid = true :=
  ⟨⟨_, rfl, rfl⟩, ⟨_, _, enabled_state_meets_the_invariant [done, done, done], rfl, rfl⟩,
    ⟨_, enabled_state_meets_the_invariant [], rfl⟩⟩

theorem witness_EveryStepKeepsTheMagInvariants :
    ∃ s t, s.MagInv ∧ s.phase = .enabled ∧ step s = .next t :=
  ⟨_, _, enabled_state_meets_the_invariant [], rfl, rfl⟩

theorem witness_NoStepChangesTheParameters :
    ∃ t, step (presented .unbound .idle (.command 0x11000000#32)) = .next t := ⟨_, rfl⟩

/-! ## Witnesses: datapath -/

theorem witness_LowNibbleDoesNotReachTheSample :
    (0xF0#8).extractLsb' 4 4 = (0xFF#8).extractLsb' 4 4 ∧ (0xF0#8) ≠ 0xFF#8 := by decide

theorem witness_GainTableIsKeyedByRangesOneToSeven :
    ((0 : Int) < 1 ∨ 7 < (0 : Int)) ∧ ((8 : Int) < 1 ∨ 7 < (8 : Int)) := by decide

theorem witness_IntegersUpToSixteenBitsConvertExactly :
    (-32768 : Int).natAbs ≤ 32768 ∧ (32768 : Int).natAbs ≤ 32768 := by decide

/-- `3.9 × ACC_UNIT`, and (1 + 2 ^ -52) × 1.5, which lies halfway between two FLOATs. -/
theorem witness_ProductIsRoundedToNearestEven :
    (floatFinite float3p9 = true ∧ floatFinite accUnit = true ∧ floatFinite (fmul float3p9 accUnit) = true ∧
      floatFinite float1 = true) ∧
    ((floatUnits (fmul 0x3FF0000000000001#64 0x3FF8000000000000#64) * unitsPerOne : Int) -
          floatUnits 0x3FF0000000000001#64 * floatUnits 0x3FF8000000000000#64).natAbs =
        ((floatUnits 0x3FF8000000000001#64 * unitsPerOne : Int) -
          floatUnits 0x3FF0000000000001#64 * floatUnits 0x3FF8000000000000#64).natAbs ∧
    floatUnits 0x3FF8000000000001#64 ≠ floatUnits (fmul 0x3FF0000000000001#64 0x3FF8000000000000#64) := by
  decide +kernel

/-- `9.80665 / 1000`, and three times the least FLOAT by 2, which lies halfway between two FLOATs. -/
theorem witness_QuotientIsRoundedToNearestEven :
    (floatFinite float9p80665 = true ∧ floatFinite float1000 = true ∧ floatUnits float1000 ≠ 0 ∧
      floatFinite (fdiv float9p80665 float1000) = true ∧ floatFinite float1 = true) ∧
    ((floatUnits (fdiv 3#64 float2) * floatUnits float2 : Int) - floatUnits 3#64 * unitsPerOne).natAbs =
        ((floatUnits 1#64 * floatUnits float2 : Int) - floatUnits 3#64 * unitsPerOne).natAbs ∧
    floatUnits 1#64 ≠ floatUnits (fdiv 3#64 float2) := by decide +kernel

theorem witness_AccelerometerScalingIsFiniteAndOdd :
    (-2048 : Int) ≤ -2048 ∧ (-2048 : Int) ≤ 2047 ∧ (-2048 : Int) ≤ 2047 ∧ (2047 : Int) ≤ 2047 ∧
    float1 ∈ [float1, float2, float3p9] ∧ float3p9 ∈ [float1, float2, float3p9] := by decide

theorem witness_MagnetometerScalingRoundsTheExactQuotientOnce :
    (-32768 : Int) ≤ -32768 ∧ (-32768 : Int) ≤ 32767 ∧ (-32768 : Int) ≤ 32767 ∧ (32767 : Int) ≤ 32767 ∧
    1#11 ≠ 0#11 ∧ 2047#11 ≠ 0#11 := by decide

/-- The saturated sample and its two neighbours. -/
theorem witness_OutputIsPlusInfinityExactlyWhenSaturated :
    (-32768 : Int) ≤ -4096 ∧ (-4096 : Int) ≤ 32767 ∧ (-4097 : Int) ≠ -4096 ∧ (-32768 : Int) ≤ -4097 ∧
    (-4095 : Int) ≠ -4096 ∧ (-4095 : Int) ≤ 32767 ∧ 205#11 ≠ 0#11 := by decide

/-! ## Witnesses: accelerometer operations, under REF -/

/-- The least and the greatest rate, each kind of range code. -/
theorem witness_AccEnableWritesBothRegistersAndSettles :
    (∃ c ∈ Params.reference.accRateSet, (c.toNat : Int) = 4) ∧ (∃ c ∈ Params.reference.accRateSet, (c.toNat : Int) = 24) ∧
    ((1 : Int) = 0 ∨ (1 : Int) = Params.reference.accRange4G.toNat ∨ (1 : Int) = Params.reference.accRange8G.toNat) ∧
    ((3 : Int) = 0 ∨ (3 : Int) = Params.reference.accRange4G.toNat ∨ (3 : Int) = Params.reference.accRange8G.toNat) ∧
    (answering .unbound [done, done]).cfg.params = Params.reference ∧
    (answering .unbound [done, done]).portReply 0 = .completes 0x00#8 0x00#8 0x00#8 ∧
    (answering .unbound [done, done]).portReply 1 = .completes 0x00#8 0x00#8 0x00#8 ∧
    (answering .unbound [done, done]).timerReply = .expires := by decide

/-- Rates next to the set, and the range code between two valid ones. -/
theorem witness_AccEnableRefusesInvalidOperands :
    (∀ c ∈ (answering .unbound []).cfg.params.accRateSet, (c.toNat : Int) ≠ 9) ∧
    (∀ c ∈ (answering .unbound []).cfg.params.accRateSet, (c.toNat : Int) ≠ -1) ∧
    ((∃ c ∈ (answering .unbound []).cfg.params.accRateSet, (c.toNat : Int) = 5) ∧ (2 : Int) ≠ 0 ∧
      (2 : Int) ≠ (answering .unbound []).cfg.params.accRange4G.toNat ∧
      (2 : Int) ≠ (answering .unbound []).cfg.params.accRange8G.toNat) ∧
    ((4 : Int) ≠ (answering .unbound []).cfg.params.accRange4G.toNat ∧
      (4 : Int) ≠ (answering .unbound []).cfg.params.accRange8G.toNat) := by decide

/-- A state whose settle timer never expires. -/
def neverSettling : State := { answering .unbound [done, done] with timerReplies := [.never] }

theorem witness_AccEnableHangsIfTheDelayNeverEnds :
    (∃ c ∈ neverSettling.cfg.params.accRateSet, (c.toNat : Int) = 5) ∧
    ((0 : Int) = 0 ∨ (0 : Int) = neverSettling.cfg.params.accRange4G.toNat ∨
      (0 : Int) = neverSettling.cfg.params.accRange8G.toNat) ∧
    neverSettling.portReply 0 = .completes 0x00#8 0x00#8 0x00#8 ∧
    neverSettling.portReply 1 = .completes 0x00#8 0x00#8 0x00#8 ∧ neverSettling.timerReply = .never := by decide

theorem witness_AccDisableWritesOneByte :
    (answering .unbound [done]).portReply 0 = .completes 0x00#8 0x00#8 0x00#8 := by decide

/-- The bytes of vector A15 as a sequence, with the range register's byte. -/
def a15Byte (ctrl4 : Byte) : Nat → Byte
  | 0 => 0x00#8
  | 1 => 0x01#8
  | 2 => 0xF0#8
  | 3 => 0xFF#8
  | 4 => 0x30#8
  | 5 => 0xC0#8
  | _ => ctrl4

/-- Each range code. -/
theorem witness_AccReadScalesTheThreeSamples :
    (∀ j, j < 7 → (answering .unbound (a15 0x00#8)).portReply j = .completes (a15Byte 0x00#8 j) 0x00#8 0x00#8) ∧
    (a15Byte 0x00#8 6).extractLsb' 4 2 = 0#2 ∧
    (∀ j, j < 7 → (answering .unbound (a15 0x10#8)).portReply j = .completes (a15Byte 0x10#8 j) 0x00#8 0x00#8) ∧
    (a15Byte 0x10#8 6).extractLsb' 4 2 = Params.reference.accRange4G ∧
    (∀ j, j < 7 → (answering .unbound (a15 0x30#8)).portReply j = .completes (a15Byte 0x30#8 j) 0x00#8 0x00#8) ∧
    (a15Byte 0x30#8 6).extractLsb' 4 2 = Params.reference.accRange8G := by decide

theorem witness_AccReadGivesFreeValuesWithoutAGain :
    (∀ j, j < 7 → (answering .unbound (a15 0x20#8)).portReply j = .completes (a15Byte 0x20#8 j) 0x00#8 0x00#8) ∧
    (a15Byte 0x20#8 6).extractLsb' 4 2 ≠ 0#2 ∧
    (a15Byte 0x20#8 6).extractLsb' 4 2 ≠ (answering .unbound (a15 0x20#8)).cfg.params.accRange4G ∧
    (a15Byte 0x20#8 6).extractLsb' 4 2 ≠ (answering .unbound (a15 0x20#8)).cfg.params.accRange8G := by decide

theorem witness_AccRdrangeReturnsTheTwoBitField :
    (answering .unbound [byte 0xFF#8]).portReply 0 = .completes 0xFF#8 0x00#8 0x00#8 := by decide

/-! ## Witnesses: magnetometer operations -/

theorem witness_MagInitAcceptsTheKnownIdentity :
    (answering .unbound [.completes 0x48#8 0x34#8 0x33#8]).portReply 0 = .completes 0x48#8 0x34#8 0x33#8 := by decide

theorem witness_MagInitRejectsEveryOtherIdentity :
    (answering .enabled [.completes 0x48#8 0x34#8 0x32#8]).portReply 0 = .completes 0x48#8 0x34#8 0x32#8 ∧
    ¬ (0x48#8 = 0x48#8 ∧ 0x34#8 = 0x34#8 ∧ 0x32#8 = 0x33#8) := by decide

/-- The least and the greatest valid rate and range. -/
theorem witness_MagEnableWritesThreeRegistersAndLoadsTheGains :
    (answering .disabled [done, done, done]).phase ≠ .unbound ∧ (0 : Int) ≤ 0 ∧ (6 : Int) < 7 ∧
    (1 : Int) = (0 : Fin 7).val + 1 ∧ (7 : Int) = (6 : Fin 7).val + 1 ∧
    ∀ j, j < 3 → (answering .disabled [done, done, done]).portReply j = .completes 0x00#8 0x00#8 0x00#8 := by decide

theorem witness_MagEnableRefusesInvalidOperands :
    (answering .disabled []).phase ≠ .unbound ∧ ((-1 : Int) < 0 ∨ 7 ≤ (-1 : Int)) ∧ ((7 : Int) < 0 ∨ 7 ≤ (7 : Int)) ∧
    ((0 : Int) ≤ 0 ∧ (0 : Int) < 7 ∧ ((0 : Int) < 1 ∨ 8 ≤ (0 : Int))) ∧
    ((0 : Int) ≤ 6 ∧ (6 : Int) < 7 ∧ ((8 : Int) < 1 ∨ 8 ≤ (8 : Int))) := by decide

theorem witness_MagDisableKeepsTheGains :
    (answering .enabled [done]).phase ≠ .unbound ∧ (answering .disabled [done]).phase ≠ .unbound ∧
    (answering .enabled [done]).portReply 0 = .completes 0x00#8 0x00#8 0x00#8 := by decide

/-- Three answered samples: -4096, 1055, 950, with their bytes and values. -/
def m20 : List PortReply := [pair 0xF0#8 0x00#8, pair 0x04#8 0x1F#8, pair 0x03#8 0xB6#8]

def m20High : Nat → Byte
  | 0 => 0xF0#8
  | 1 => 0x04#8
  | _ => 0x03#8

def m20Low : Nat → Byte
  | 0 => 0x00#8
  | 1 => 0x1F#8
  | _ => 0xB6#8

def m20Raw : Nat → Int
  | 0 => -4096
  | 1 => 1055
  | _ => 950

theorem witness_MagReadConvertsEachAxisWhenEnabled :
    (gained .enabled (1055#11, 950#11) m20).phase = .enabled ∧
    ∀ j, j < 3 → (gained .enabled (1055#11, 950#11) m20).portReply j = .completes (m20High j) (m20Low j) 0x00#8 ∧
      m20Raw j = 256 * (m20High j).toInt + (m20Low j).toNat := by decide

/-- With gains retained and without. -/
theorem witness_MagReadGivesFreeValuesWhenDisabled :
    (gained .disabled (1055#11, 950#11) m20).phase = .disabled ∧ (answering .disabled m20).phase = .disabled ∧
    (∀ j, j < 3 → (gained .disabled (1055#11, 950#11) m20).portReply j = .completes (m20High j) (m20Low j) 0x00#8 ∧
      m20Raw j = 256 * (m20High j).toInt + (m20Low j).toNat) ∧
    ∀ j, j < 3 → (answering .disabled m20).portReply j = .completes (m20High j) (m20Low j) 0x00#8 := by decide

theorem witness_MagRdrawReturnsRawSamplesInOrderXZY :
    (answering .disabled m20).phase ≠ .unbound ∧ (answering .enabled m20).phase ≠ .unbound ∧
    (∀ j, j < 3 → (answering .enabled m20).portReply j = .completes (m20High j) (m20Low j) 0x00#8 ∧
      m20Raw j = 256 * (m20High j).toInt + (m20Low j).toNat) ∧
    ∀ j, j < 3 → (answering .disabled m20).portReply j = .completes (m20High j) (m20Low j) 0x00#8 := by decide

theorem witness_MagRdrawRefusesAnUnassertedFlag :
    (answering .disabled []).phase ≠ .unbound ∧ (answering .enabled []).phase ≠ .unbound := by decide

theorem witness_UnboundMagnetometerAnswersNotConstructed :
    (answering .unbound []).phase = .unbound ∧
    (Instr.magDisable = .magDisable ∧ Instr.magRead = .magRead ∧ (∃ rate range, Instr.magEnable 9 9 = .magEnable rate range) ∧
      ∃ flag, Instr.magRdraw false = .magRdraw flag) :=
  ⟨rfl, rfl, rfl, ⟨9, 9, rfl⟩, ⟨false, rfl⟩⟩

/-! ## Witnesses: every operation -/

/-- Seven completing answers: as many as the longest operation uses. -/
def sevenDone : List PortReply := [done, done, done, done, done, done, done]

/-- The same for every number of calls that stands in the list before an answer of another kind. -/
theorem seven_calls_complete (phase : Phase) (n : Nat) (hn : n ≤ 7) : (answering phase sevenDone).completesFirst n := by
  intro j hj
  refine ⟨0x00#8, 0x00#8, 0x00#8, ?_⟩
  have : j < 7 := by omega
  interval_cases j <;> rfl

/-- One operation of each opcode, with operands that are valid under REF. -/
def eachOperation : List Instr :=
  [.accEnable 5 0, .accDisable, .accRead, .accRdrange, .magInit, .magEnable 6 7, .magDisable, .magRead, .magRdraw true]

theorem each_operation_is_admitted (phase : Phase) (hp : phase ≠ .unbound) (replies : List PortReply) :
    ∀ i ∈ eachOperation, i.admitted (answering phase replies) := by
  intro i hi
  fin_cases hi <;> trivial

/-- Every operation has such a state. -/
theorem witness_CompletedOperationFollowsTheAccessTable :
    ∀ i ∈ eachOperation, ∃ s, i.admitted s ∧ s.completesFirst (i.accesses s.cfg.params).length ∧
      (i.delayEvents ≠ [] → s.timerReply = .expires) := by
  intro i hi
  refine ⟨answering .enabled sevenDone, each_operation_is_admitted _ (by decide) _ i hi, ?_, fun _ => rfl⟩
  exact seven_calls_complete _ _ (by fin_cases hi <;> decide)

/-- The first call of ACC_READ fails, the seventh, and the only one of MAG_INIT. -/
theorem witness_TransportErrorEndsTheOperationAtTheFailingCall :
    (Instr.accRead.admitted (answering .unbound [.fails ⟨1⟩]) ∧ 0 < (Instr.accRead.accesses Params.reference).length ∧
      (answering .unbound [.fails ⟨1⟩]).completesFirst 0 ∧ (answering .unbound [.fails ⟨1⟩]).portReply 0 = .fails ⟨1⟩) ∧
    (Instr.accRead.admitted (answering .unbound ((a15 0x00#8).take 6 ++ [.fails ⟨1⟩])) ∧
      6 < (Instr.accRead.accesses Params.reference).length ∧
      (answering .unbound ((a15 0x00#8).take 6 ++ [.fails ⟨1⟩])).completesFirst 6 ∧
      (answering .unbound ((a15 0x00#8).take 6 ++ [.fails ⟨1⟩])).portReply 6 = .fails ⟨1⟩) ∧
    (Instr.magInit.admitted (answering .enabled [.fails ⟨1⟩]) ∧ 0 < (Instr.magInit.accesses Params.reference).length ∧
      (answering .enabled [.fails ⟨1⟩]).completesFirst 0 ∧ (answering .enabled [.fails ⟨1⟩]).portReply 0 = .fails ⟨1⟩) := by
  refine ⟨⟨trivial, by decide, fun j hj => absurd hj (Nat.not_lt_zero j), rfl⟩,
    ⟨trivial, by decide, fun j hj => ?_, rfl⟩, ⟨trivial, by decide, fun j hj => absurd hj (Nat.not_lt_zero j), rfl⟩⟩
  interval_cases j <;> exact ⟨_, _, _, rfl⟩

/-- The third write of MAG_ENABLE stalls, and its first. -/
theorem witness_StalledCallLeavesTheMachineBusyWithoutAResponse :
    ((Instr.magEnable 0 1).admitted (answering .disabled [done, done, .stalls]) ∧
      2 < ((Instr.magEnable 0 1).accesses Params.reference).length ∧
      (answering .disabled [done, done, .stalls]).completesFirst 2 ∧
      (answering .disabled [done, done, .stalls]).portReply 2 = .stalls) ∧
    ((Instr.magEnable 0 1).admitted (answering .disabled [.stalls]) ∧
      (answering .disabled [.stalls]).completesFirst 0 ∧ (answering .disabled [.stalls]).portReply 0 = .stalls) := by
  refine ⟨⟨⟨by decide, rfl, rfl⟩, by decide, fun j hj => ?_, rfl⟩,
    ⟨⟨by decide, rfl, rfl⟩, fun j hj => absurd hj (Nat.not_lt_zero j), rfl⟩⟩
  interval_cases j <;> exact ⟨_, _, _, rfl⟩

/-- An operation that is answered and one that hangs. -/
theorem witness_EveryOperationGivesOneResponseOrHangs :
    (∃ t, exec .accDisable (answering .unbound [done]) = .next t ∧ t.commandPort = .idle) ∧
    (∃ t, exec .accDisable (answering .unbound [.stalls]) = .next t ∧ t.commandPort = .busy) :=
  ⟨⟨_, rfl, rfl⟩, ⟨_, rfl, rfl⟩⟩

theorem witness_HistoryOnlyGrowsByTheUnitsOwnCalls :
    ∃ t, exec (.accEnable 5 0) (answering .unbound [done, done]) = .next t ∧ t.history.length = 3 := ⟨_, rfl, rfl⟩

theorem witness_MagStateAfterEachEndingIsTheTables :
    ∃ t r, exec .magInit (answering .enabled [.fails ⟨1⟩]) = .next t ∧
      t.responses = (answering .enabled [.fails ⟨1⟩]).responses ++ [r] ∧ r.status = .transportError :=
  ⟨_, ⟨.transportError, some ⟨1⟩, .none⟩, rfl, rfl, rfl⟩

/-- Each of the three operations. -/
theorem witness_OnlyInitEnableAndDisableChangeTheMagState :
    (∃ t, exec .magInit (answering .enabled [.fails ⟨1⟩]) = .next t ∧ t.mag ≠ (answering .enabled [.fails ⟨1⟩]).mag) ∧
    (∃ t, exec (.magEnable 0 1) (answering .disabled [done, done, done]) = .next t ∧
      t.mag ≠ (answering .disabled [done, done, done]).mag) ∧
    (∃ t, exec .magDisable (answering .enabled [done]) = .next t ∧ t.mag ≠ (answering .enabled [done]).mag) :=
  ⟨⟨_, rfl, fun h => Phase.noConfusion (congrArg MagState.phase h)⟩, ⟨_, rfl, by decide⟩, ⟨_, rfl, by decide⟩⟩

theorem witness_AccelerometerOperationsIgnoreTheMagState :
    Instr.accRead.unit = .acc ∧ (Instr.accEnable 9 9).unit = .acc := by decide

theorem witness_DisabledMagReadDoesNotUseTheGains :
    (answering .disabled m20).phase ≠ .enabled ∧
    (MagState.mk .disabled true 1055#11 950#11).phase = (answering .disabled m20).phase := by decide

theorem witness_MagRdrawIgnoresGainsAndEnabling :
    (answering .disabled m20).phase ≠ .unbound ∧ (MagState.mk .enabled true 1055#11 950#11).phase ≠ .unbound := by decide

theorem witness_DisablingTwiceRepeatsTheWriteAndKeepsTheState :
    (answering .unbound sevenDone).completesFirst 2 ∧ (answering .enabled sevenDone).completesFirst 2 ∧
    (answering .enabled sevenDone).phase ≠ .unbound ∧ (answering .disabled sevenDone).completesFirst 2 ∧
    (answering .disabled sevenDone).phase ≠ .unbound :=
  ⟨seven_calls_complete _ 2 (by decide), seven_calls_complete _ 2 (by decide), by decide,
    seven_calls_complete _ 2 (by decide), by decide⟩

end Sys2Proof.Tests
end

section
/-! PROOFS. Replacing the MAG state commutes with every shared operation that does not write it; the accelerometer
operations are made of nothing else (R2, R16). -/

namespace Sys2Proof.Machine

variable {s : State} {m : MagState}

/-! ### The MAG state under the shared updates -/

@[simp] theorem State.withMag_cfg : (s.withMag m).cfg = s.cfg := rfl
@[simp] theorem State.withMag_deliver (r : Response) : (s.withMag m).deliver r = (s.deliver r).withMag m := rfl

/-- The shared updates write no MAG state, so they keep it whatever it is. -/
theorem keptByUpdates_mag (m : MagState) : KeptByUpdates (·.mag = m) :=
  ⟨fun _ _ h => h, fun _ _ h => h, fun _ h => h, fun _ h => h, fun _ h => h, fun _ h => h⟩

/-! ### Replacing the MAG state under a call and a delay -/

/-- A port call commutes with replacing the MAG state if what follows does, from the states that still hold the old one. -/
theorem portCall_withMag {α : Type} {event : CallResult α → Event} {value : Byte → Byte → Byte → α}
    {k : α → State → State} (hk : ∀ a s', s'.mag = s.mag → k a (s'.withMag m) = (k a s').withMag m) :
    portCall event value (s.withMag m) k = (portCall event value s k).withMag m := by
  cases h : s.portReply 0 with
  | completes b0 b1 b2 =>
    rw [portCall_completes h, portCall_completes (s := s.withMag m) h]
    exact hk _ (s.afterCall.record _) rfl
  | fails e => rw [portCall_fails h, portCall_fails (s := s.withMag m) h]; rfl
  | stalls => rw [portCall_stalls h, portCall_stalls (s := s.withMag m) h]; rfl

/-- A delay commutes with replacing the MAG state if what follows does. -/
theorem portDelay_withMag {ms : Nat} {k : State → State}
    (hk : ∀ s', s'.mag = s.mag → k (s'.withMag m) = (k s').withMag m) :
    portDelay ms (s.withMag m) k = (portDelay ms s k).withMag m := by
  cases h : s.timerReply with
  | expires =>
    rw [portDelay_expires h, portDelay_expires (s := s.withMag m) h]
    exact hk (s.afterDelay.record _) rfl
  | never => rw [portDelay_never h, portDelay_never (s := s.withMag m) h]; rfl

/-! ### The accelerometer operations -/

theorem execAccEnable_withMag (rate range : Int) {t : State} (h : execAccEnable rate range s = .next t) :
    execAccEnable rate range (s.withMag m) = .next (t.withMag m) := by
  cases h
  by_cases hrate : accRateValid s.cfg.params rate
  case neg => simp [execAccEnable, hrate]
  by_cases hrange : accRangeValid s.cfg.params range
  case neg => simp [execAccEnable, hrate, hrange]
  simp only [execAccEnable, State.withMag_cfg, hrate, hrange, Bool.not_true, Bool.false_eq_true, if_false]
  exact congrArg Host.Outcome.next <|
    portCall_withMag fun _ _ _ => portCall_withMag fun _ _ _ => portDelay_withMag fun _ _ => rfl

theorem execAccDisable_withMag {t : State} (h : execAccDisable s = .next t) :
    execAccDisable (s.withMag m) = .next (t.withMag m) := by
  cases h
  exact congrArg Host.Outcome.next (portCall_withMag fun _ _ _ => rfl)

theorem execAccRead_withMag {t : State} (h : execAccRead s = .next t) :
    execAccRead (s.withMag m) = .next (t.withMag m) := by
  cases h
  refine congrArg Host.Outcome.next (portCall_withMag fun _ _ _ => portCall_withMag fun _ _ _ =>
    portCall_withMag fun _ _ _ => portCall_withMag fun _ _ _ => portCall_withMag fun _ _ _ =>
    portCall_withMag fun _ _ _ => portCall_withMag fun b s' _ => ?_)
  simp only [State.withMag_cfg]
  cases accGain s'.cfg.params (accRangeField b) with
  | some g => rfl
  | none => rfl

theorem execAccRdrange_withMag {t : State} (h : execAccRdrange s = .next t) :
    execAccRdrange (s.withMag m) = .next (t.withMag m) := by
  cases h
  exact congrArg Host.Outcome.next (portCall_withMag fun _ _ _ => rfl)

/-- R16: with another MAG state an accelerometer operation does the same, and leaves that other one. -/
theorem exec_withMag_of_acc {i : Instr} (hi : i.unit = .acc) {t : State} (h : exec i s = .next t) :
    exec i (s.withMag m) = .next (t.withMag m) := by
  cases i with
  | accEnable rate range => exact execAccEnable_withMag rate range h
  | accDisable => exact execAccDisable_withMag h
  | accRead => exact execAccRead_withMag h
  | accRdrange => exact execAccRdrange_withMag h
  | magInit | magEnable | magDisable | magRead | magRdraw => cases hi

/-- R2: an accelerometer operation leaves the MAG state as it was. -/
theorem exec_mag_of_acc {i : Instr} (hi : i.unit = .acc) {t : State} (h : exec i s = .next t) : t.mag = s.mag := by
  refine exec_keeps (keptByUpdates_mag s.mag) ⟨?_, fun _ _ => ?_, ?_⟩ rfl h <;> rintro rfl <;> cases hi

/-- Settles O54: every shared operation the accelerometer's meanings are built of keeps the MAG state and commutes with
replacing it. -/
theorem accelerometerOperationsIgnoreTheMagState : Obligations.AccelerometerOperationsIgnoreTheMagState := by
  intro i s m hi
  obtain ⟨t, ht⟩ := exec_next i s
  exact ⟨t, ht, exec_mag_of_acc hi ht, exec_withMag_of_acc hi ht⟩

end Sys2Proof.Machine
end

section
/-! PROOFS. What one step can do, and the invariants of the MAG state (R15): every update an operation makes of a state
keeps them, so every operation does, and so does every step. -/

namespace Sys2Proof.Machine

variable {s t : State} {cw : CommandWord} {rest : List HostInput}

/-! ### One step, by the host's next input -/

theorem step_noInput (h : s.hostInputs = []) : step s = .next s := by
  simp [step, State.turn, h]

theorem step_reset (h : s.hostInputs = .reset :: rest) : step s = .next s.takeReset.resetInput := by
  simp [step, State.turn, h]

theorem step_waitingCommand (h : s.hostInputs = .command cw :: rest) (hp : s.commandPort = .busy)
    (hr : .reset ∉ rest) : step s = .next s := by
  simp [step, State.turn, h, hp, hr]

theorem step_resetBehindCommand (h : s.hostInputs = .command cw :: rest) (hp : s.commandPort = .busy)
    (hr : .reset ∈ rest) : step s = .next s.takeReset.resetInput := by
  simp [step, State.turn, h, hp, hr]

theorem step_legalCommand (h : s.hostInputs = .command cw :: rest) (hp : s.commandPort = .idle) {i : Instr}
    (hd : decodeWord cw = .ok i) : step s = exec i s.accept := by
  simp [step, State.turn, h, hp, hd]

theorem step_illegalCommand (h : s.hostInputs = .command cw :: rest) (hp : s.commandPort = .idle) {e : DecodeError}
    (hd : decodeWord cw = .error e) : step s = .next (illegalCommand s.accept) := by
  simp [step, State.turn, h, hp, hd]

/-- Everything a step can do: nothing, the reset input, an operation, or the answer to an illegal word. -/
theorem step_cases (h : step s = .next t) :
    t = s ∨ t = s.takeReset.resetInput ∨ (∃ i, exec i s.accept = .next t) ∨ t = illegalCommand s.accept := by
  cases hin : s.hostInputs with
  | nil => exact .inl (by simpa [step_noInput hin] using h.symm)
  | cons input rest =>
    cases input with
    | reset => exact .inr (.inl (by simpa [step_reset hin] using h.symm))
    | command cw =>
      cases hp : s.commandPort with
      | idle =>
        cases hd : decodeWord cw with
        | ok i => exact .inr (.inr (.inl ⟨i, step_legalCommand hin hp hd ▸ h⟩))
        | error e => exact .inr (.inr (.inr (by simpa [step_illegalCommand hin hp hd] using h.symm)))
      | busy =>
        by_cases hr : .reset ∈ rest
        · exact .inr (.inl (by simpa [step_resetBehindCommand hin hp hr] using h.symm))
        · exact .inl (by simpa [step_waitingCommand hin hp hr] using h.symm)

/-! ### The invariants under each update -/

theorem Phase.code_ne_three (p : Phase) : p.code ≠ 3#2 := by
  cases p <;> decide

/-- The MAG state after reset meets the invariants, whatever the gain registers hold. -/
theorem magInv_of_unbound (hphase : s.phase = .unbound) (hvalid : s.gainValid = false) : s.MagInv := by
  refine ⟨fun h => ?_, fun h => ?_, fun _ => hvalid, s.phase.code_ne_three⟩
  · rw [hphase] at h
    cases h
  · rw [hvalid] at h
    cases h

/-- `DISABLED` asks nothing of the gains that the state before did not. -/
theorem State.MagInv.setPhase_disabled (h : s.MagInv) : (s.setPhase .disabled).MagInv := by
  obtain ⟨-, hgains, -, -⟩ := h
  exact ⟨nofun, hgains, nofun, Phase.code_ne_three _⟩

/-- The commit of MAG_ENABLE establishes the invariants: it validates a pair of the table as it enables. -/
theorem magInv_commitGains (key : Fin 7) : (s.commitGains (magGainLut key)).MagInv :=
  ⟨fun _ => rfl, fun _ => magGainLut_mem key, nofun, Phase.code_ne_three _⟩

/-- The shared updates write no MAG state, so they keep its invariants. -/
theorem keptByUpdates_magInv : KeptByUpdates State.MagInv :=
  ⟨fun _ _ h => h, fun _ _ h => h, fun _ h => h, fun _ h => h, fun _ h => h, fun _ h => h⟩

theorem magInv_resetInput (s : State) : s.resetInput.MagInv := magInv_of_unbound rfl rfl

/-! ### The invariants under the three operations that write the MAG state -/

/-- MAG_INIT establishes the invariants: it unbinds the unit before its read, and leaves it unbound or disabled. -/
theorem execMagInit_magInv (h : execMagInit s = .next t) : t.MagInv := by
  have hP := keptByUpdates_magInv
  cases h
  refine hP.call (magInv_of_unbound rfl rfl) fun id s' h' => ?_
  split_ifs
  · exact hP.deliver _ _ h'.setPhase_disabled
  · exact hP.deliver _ _ h'

theorem execMagEnable_magInv {rate range : Int} (hs : s.MagInv) (h : execMagEnable rate range s = .next t) :
    t.MagInv := by
  have hP := keptByUpdates_magInv
  cases h
  refine hP.phaseCheck hs ?_
  split_ifs
  · exact hP.deliver _ _ hs
  · cases magRangeKey range with
    | none => exact hP.deliver _ _ hs
    | some key =>
      exact hP.call hs fun _ _ h1 => hP.call h1 fun _ _ h2 => hP.call h2 fun _ _ _ =>
        hP.deliver _ _ (magInv_commitGains key)

theorem execMagDisable_magInv (hs : s.MagInv) (h : execMagDisable s = .next t) : t.MagInv := by
  have hP := keptByUpdates_magInv
  cases h
  exact hP.phaseCheck hs (hP.call hs fun _ _ h1 => hP.deliver _ _ h1.setPhase_disabled)

/-! ### The invariants under an operation and a step -/

theorem exec_magInv {i : Instr} (hs : s.MagInv) (h : exec i s = .next t) : t.MagInv := by
  cases i with
  | magInit => exact execMagInit_magInv h
  | magEnable rate range => exact execMagEnable_magInv hs h
  | magDisable => exact execMagDisable_magInv hs h
  | accEnable | accDisable | accRead | accRdrange | magRead | magRdraw =>
    exact exec_keeps keptByUpdates_magInv (by simp) hs h

/-- No gain of the table is zero. -/
theorem magGainTable_ne_zero : ∀ g ∈ magGainTable.toList, g.1 ≠ 0#11 ∧ g.2 ≠ 0#11 := by
  simp [magGainTable]

theorem State.MagInv.gains_ne_zero (h : s.MagInv) (hvalid : s.gainValid = true) :
    s.gainXy ≠ 0#11 ∧ s.gainZ ≠ 0#11 := by
  obtain ⟨-, hgains, -, -⟩ := h
  exact magGainTable_ne_zero _ (hgains hvalid)

/-- Settles O12, by what a step can do: accepting a word, obeying a reset and answering an illegal word keep the
invariants as every operation does. -/
theorem everyStepKeepsTheMagInvariants : Obligations.EveryStepKeepsTheMagInvariants := by
  intro s t hs h
  have haccept : s.accept.MagInv := hs
  obtain rfl | rfl | ⟨i, hi⟩ | rfl := step_cases h
  · exact hs
  · exact magInv_resetInput _
  · exact exec_magInv haccept hi
  · exact keptByUpdates_magInv.deliver _ _ haccept

/-- Settles O13: the unit is unbound after reset. -/
theorem resetMeetsTheMagInvariants : Obligations.ResetMeetsTheMagInvariants := magInv_of_unbound rfl rfl

/-- Settles O11: reset leaves the unit unbound, every operation keeps the invariants, and the table holds no zero. -/
theorem operationsPreserveAndResetEstablishTheMagInvariants :
    Obligations.OperationsPreserveAndResetEstablishTheMagInvariants := by
  refine ⟨resetMeetsTheMagInvariants, fun s rest t hin h => ?_, fun _ _ _ => exec_magInv,
    fun _ => State.MagInv.gains_ne_zero⟩
  rw [step_reset hin] at h
  cases h
  exact magInv_resetInput _

/-- Settles O53: the shared updates, which are all that the other operations make, keep the MAG state. -/
theorem onlyInitEnableAndDisableChangeTheMagState : Obligations.OnlyInitEnableAndDisableChangeTheMagState := by
  intro i s t h hne
  by_contra hother
  push Not at hother
  obtain ⟨hinit, henable, hdisable⟩ := hother
  exact hne (exec_keeps (keptByUpdates_mag s.mag) ⟨hinit, henable, hdisable⟩ rfl h)

/-- Settles O10: the values of the reset state, and the numbers of each phase and each status. -/
theorem resetStateHasTheSpecsValues : Obligations.ResetStateHasTheSpecsValues := by
  refine ⟨rfl, rfl, rfl, rfl, rfl, fun p => ?_, fun st => ?_⟩
  · cases p <;> rfl
  · cases st <;> rfl

end Sys2Proof.Machine
end

section
/-! PROOFS. The accesses of an operation, one after another (R51, R36): the state they leave, and a run of them to its
end, to the first call that fails or to the first that never completes (R165, R172). -/

namespace Sys2Proof.Machine

/-- The events of the first `n` of a list of accesses, answered by the port's coming answers. -/
def accessEvents (u : SensorUnit) (as : List Access) (s : State) (n : Nat) : List Event :=
  List.zipWith (fun (a : Access) j => a.event u (s.portReply j)) (as.take n) (List.range n)

/-- The state once the port has answered an access and the access stands in the history. -/
def State.afterAccess (s : State) (u : SensorUnit) (a : Access) : State :=
  s.afterCall.record (a.event u (s.portReply 0))

/-- The state once the port has answered the first `n` of a list of accesses. -/
def State.afterAccesses (s : State) (u : SensorUnit) (as : List Access) (n : Nat) : State :=
  (as.take n).foldl (fun s a => s.afterAccess u a) s

/-- The accesses `as` of unit `u`, made in order from the first state, end in the second: each is made only if the one
before it completed, and after the last the operation ends as `E` says. -/
inductive AccessRun (u : SensorUnit) (E : State → State → Prop) : List Access → State → State → Prop
  | ended {s t} : E s t → AccessRun u E [] s t
  | completes {a as s t b0 b1 b2} : s.portReply 0 = .completes b0 b1 b2 → AccessRun u E as (s.afterAccess u a) t →
      AccessRun u E (a :: as) s t
  | fails {a as s e} : s.portReply 0 = .fails e → AccessRun u E (a :: as) s ((s.afterAccess u a).raiseTransport e)
  | stalls {a as s} : s.portReply 0 = .stalls → AccessRun u E (a :: as) s (s.afterAccess u a).hang

variable {u : SensorUnit} {E : State → State → Prop} {P : State → Prop} {a : Access} {as : List Access}
  {s t : State} {j : Nat}

/-! ### The events of a list of accesses -/

theorem instrEvents_eq (i : Instr) (s : State) (n : Nat) :
    i.events s n = accessEvents i.unit (i.accesses s.cfg.params) s n := rfl

@[simp] theorem accessEvents_nil (n : Nat) : accessEvents u [] s n = [] := by simp [accessEvents]

@[simp] theorem accessEvents_zero : accessEvents u as s 0 = [] := by simp [accessEvents]

theorem accessEvents_length_le (n : Nat) : (accessEvents u as s n).length ≤ n := by simp [accessEvents]

@[simp] theorem event_unit (r : PortReply) : (a.event u r).unit? = some u := by cases a <;> rfl

theorem unit_of_mem_accessEvents {n : Nat} {e : Event} (h : e ∈ accessEvents u as s n) : e.unit? = some u := by
  rw [accessEvents, List.mem_iff_getElem] at h
  obtain ⟨k, hk, rfl⟩ := h
  simp

/-! ### The state an access leaves -/

@[simp] theorem State.portReply_afterAccess (j : Nat) : (s.afterAccess u a).portReply j = s.portReply (j + 1) := by
  simp [State.afterAccess]

theorem accessEvents_cons (n : Nat) :
    accessEvents u (a :: as) s (n + 1) = a.event u (s.portReply 0) :: accessEvents u as (s.afterAccess u a) n := by
  simp [accessEvents, List.range_succ_eq_map, List.zipWith_map_right]

@[simp] theorem State.afterAccesses_zero : s.afterAccesses u as 0 = s := rfl

@[simp] theorem State.afterAccesses_nil (n : Nat) : s.afterAccesses u [] n = s := by simp [State.afterAccesses]

@[simp] theorem State.afterAccesses_cons (n : Nat) :
    s.afterAccesses u (a :: as) (n + 1) = (s.afterAccess u a).afterAccesses u as n := rfl

theorem State.afterAccesses_history (n : Nat) :
    (s.afterAccesses u as n).history = s.history ++ accessEvents u as s n := by
  induction as generalizing s n with
  | nil => simp
  | cons a as ih =>
    cases n with
    | zero => simp
    | succ n => simp [ih, accessEvents_cons, State.afterAccess]

theorem State.afterAccesses_calls {n : Nat} (h : n ≤ as.length) :
    (s.afterAccesses u as n).calls = s.calls + n := by
  induction as generalizing s n with
  | nil => simp_all
  | cons a as ih =>
    cases n with
    | zero => simp
    | succ n =>
      rw [State.afterAccesses_cons, ih (by simpa using h)]
      simp [State.afterAccess, Nat.add_assoc, Nat.add_comm 1]

/-- What every use of an answer and every recorded event keep, a list of accesses keeps. -/
theorem State.afterAccesses_keeps (hcall : ∀ s, P s → P s.afterCall) (hrecord : ∀ s ev, P s → P (s.record ev))
    (n : Nat) (hs : P s) : P (s.afterAccesses u as n) := by
  induction as generalizing s n with
  | nil => simpa using hs
  | cons a as ih =>
    cases n with
    | zero => exact hs
    | succ n => exact ih n (hrecord _ _ (hcall _ hs))

@[simp] theorem State.afterAccesses_responses (n : Nat) : (s.afterAccesses u as n).responses = s.responses :=
  State.afterAccesses_keeps (P := (·.responses = s.responses)) (fun _ h => h) (fun _ _ h => h) n rfl

@[simp] theorem State.afterAccesses_delays (n : Nat) : (s.afterAccesses u as n).delays = s.delays :=
  State.afterAccesses_keeps (P := (·.delays = s.delays)) (fun _ h => h) (fun _ _ h => h) n rfl

@[simp] theorem State.afterAccesses_timerReply (n : Nat) : (s.afterAccesses u as n).timerReply = s.timerReply :=
  State.afterAccesses_keeps (P := (·.timerReply = s.timerReply)) (fun _ h => h) (fun _ _ h => h) n rfl

theorem State.portReply_afterAccesses {n : Nat} (h : n ≤ as.length) (j : Nat) :
    (s.afterAccesses u as n).portReply j = s.portReply (n + j) := by
  induction as generalizing s n with
  | nil => simp_all
  | cons a as ih =>
    cases n with
    | zero => simp
    | succ n =>
      rw [State.afterAccesses_cons, ih (by simpa using h), State.portReply_afterAccess]
      congr 1
      omega

theorem State.afterAccesses_succ (h : j < as.length) :
    s.afterAccesses u as (j + 1) = (s.afterAccesses u as j).afterAccess u as[j] := by
  rw [State.afterAccesses, List.take_succ_eq_append_getElem h, List.foldl_append]
  rfl

/-! ### A run of accesses -/

/-- A port call whose event is that of an access starts a run, if what it goes on to is a run. -/
theorem AccessRun.call {α : Type} {event : CallResult α → Event} {value : Byte → Byte → Byte → α}
    {k : α → State → State} (ha : ∀ r, a.event u r = event (.ofReply value r))
    (hk : ∀ b0 b1 b2, AccessRun u E as (s.afterAccess u a) (k (value b0 b1 b2) (s.afterAccess u a))) :
    AccessRun u E (a :: as) s (portCall event value s k) := by
  have hevent : s.afterAccess u a = s.afterCall.record (event (.ofReply value (s.portReply 0))) := by
    rw [State.afterAccess, ha]
  cases h : s.portReply 0 with
  | completes b0 b1 b2 =>
    rw [h, CallResult.ofReply] at hevent
    exact portCall_completes h ▸ .completes h (hevent ▸ hk b0 b1 b2)
  | fails e =>
    rw [h, CallResult.ofReply] at hevent
    exact portCall_fails h ▸ hevent ▸ .fails h
  | stalls =>
    rw [h, CallResult.ofReply] at hevent
    exact portCall_stalls h ▸ hevent ▸ .stalls h

/-- What is left of a run once its first `j` calls have completed. -/
theorem AccessRun.drop (h : AccessRun u E as s t) (hc : s.completesFirst j) :
    AccessRun u E (as.drop j) (s.afterAccesses u as j) t := by
  induction j generalizing as s with
  | zero => exact h
  | succ j ih =>
    obtain ⟨b0, b1, b2, h0⟩ := hc 0 j.succ_pos
    cases h with
    | ended hE => simpa using .ended hE
    | completes _ h => exact ih h fun k hk => by simpa using hc (k + 1) (by omega)
    | fails hr => cases h0.symm.trans hr
    | stalls hr => cases h0.symm.trans hr

/-- A run whose calls all complete ends as the operation does. -/
theorem AccessRun.completed (h : AccessRun u E as s t) (hc : s.completesFirst as.length) :
    E (s.afterAccesses u as as.length) t := by
  have h := h.drop hc
  rw [List.drop_length] at h
  cases h with
  | ended hE => exact hE

/-- A run whose call `j` is the first not to complete ends there: with the port's error, or never. -/
theorem AccessRun.interrupted (h : AccessRun u E as s t) (hj : j < as.length) (hc : s.completesFirst j)
    (hn : ∀ b0 b1 b2, s.portReply j ≠ .completes b0 b1 b2) :
    (∃ e, s.portReply j = .fails e ∧ t = (s.afterAccesses u as (j + 1)).raiseTransport e) ∨
      s.portReply j = .stalls ∧ t = (s.afterAccesses u as (j + 1)).hang := by
  have h := h.drop hc
  have hreply : (s.afterAccesses u as j).portReply 0 = s.portReply j := State.portReply_afterAccesses hj.le 0
  rw [List.drop_eq_getElem_cons hj] at h
  rw [State.afterAccesses_succ hj]
  cases h with
  | completes hr _ => exact absurd (hreply.symm.trans hr) (hn _ _ _)
  | fails hr => exact .inl ⟨_, hreply.symm.trans hr, rfl⟩
  | stalls hr => exact .inr ⟨hreply.symm.trans hr, rfl⟩

/-- However a run ends, its calls were a first part of its accesses, and of all of them if it came to its end. -/
theorem AccessRun.history (h : AccessRun u E as s t) :
    E (s.afterAccesses u as as.length) t ∨
      ∃ n ≤ as.length, t.history = s.history ++ accessEvents u as s n := by
  simp only [← State.afterAccesses_history]
  induction h with
  | ended hE => exact .inl hE
  | completes _ _ ih =>
    obtain hE | ⟨n, hn, hh⟩ := ih
    · exact .inl hE
    · exact .inr ⟨n + 1, Nat.succ_le_succ hn, hh⟩
  | fails _ => exact .inr ⟨1, by simp, rfl⟩
  | stalls _ => exact .inr ⟨1, by simp, rfl⟩

/-- A run keeps what the shared updates and the end of the operation keep. -/
theorem AccessRun.keeps (h : AccessRun u E as s t) (hP : KeptByUpdates P) (hE : ∀ s t, E s t → P s → P t)
    (hs : P s) : P t := by
  induction h with
  | ended h => exact hE _ _ h hs
  | completes _ _ ih => exact ih (hP.record _ _ (hP.afterCall _ hs))
  | fails _ => exact hP.deliver _ _ (hP.record _ _ (hP.afterCall _ hs))
  | stalls _ => exact hP.hang _ (hP.record _ _ (hP.afterCall _ hs))

end Sys2Proof.Machine
end

section
/-! PROOFS. Every operation is a check, then a run of the accesses of its table (R51), then an end: what each operation
does at its end is said once, and what holds of all of them follows from the run. -/

namespace Sys2Proof

open Machine

/-- The state in which an operation makes its first access: MAG_INIT has unbound the unit before it (R130). -/
def Instr.start (s : State) : Instr → State
  | .magInit => s.unbindMag
  | _ => s

/-- What an operation does once its accesses have completed: the settle delay, the commit of the MAG state and the
response, of whatever values. -/
def Instr.Ends : Instr → State → State → Prop
  | .accEnable _ _, s, t => t = portDelay accSettleMs s fun s => s.respondOk .none
  | .accDisable, s, t => t = s.respondOk .none
  | .accRead, s, t => (∃ v0 v1 v2, t = s.respondOk (.three v0 v1 v2)) ∨ t = s.respondFree
  | .accRdrange, s, t => ∃ v, t = s.respondOk (.one v)
  | .magInit, s, t => t = (s.setPhase .disabled).respondOk .none ∨ t = s.raise .unrecognizedDevice
  | .magEnable _ range, s, t =>
    ∃ key, magRangeKey range = some key ∧ t = (s.commitGains (magGainLut key)).respondOk .none
  | .magDisable, s, t => t = (s.setPhase .disabled).respondOk .none
  | .magRead, s, t => (∃ v0 v1 v2, t = s.respondOk (.three v0 v1 v2)) ∨ t = s.respondFree
  | .magRdraw _, s, t => ∃ v0 v1 v2, t = s.respondOk (.three v0 v1 v2)

section start

variable (i : Instr) (s : State)

@[simp] theorem Instr.start_cfg : (i.start s).cfg = s.cfg := by cases i <;> rfl
@[simp] theorem Instr.start_history : (i.start s).history = s.history := by cases i <;> rfl
@[simp] theorem Instr.start_responses : (i.start s).responses = s.responses := by cases i <;> rfl
@[simp] theorem Instr.start_calls : (i.start s).calls = s.calls := by cases i <;> rfl
@[simp] theorem Instr.start_delays : (i.start s).delays = s.delays := by cases i <;> rfl
@[simp] theorem Instr.start_portReply (j : Nat) : (i.start s).portReply j = s.portReply j := by cases i <;> rfl
@[simp] theorem Instr.start_timerReply : (i.start s).timerReply = s.timerReply := by cases i <;> rfl

theorem Instr.start_accessEvents (n : Nat) :
    accessEvents i.unit (i.accesses s.cfg.params) (i.start s) n = i.events s n := by cases i <;> rfl

@[simp] theorem Instr.start_completesFirst (n : Nat) : (i.start s).completesFirst n = s.completesFirst n := by
  cases i <;> rfl

end start

theorem Instr.accesses_length_le (i : Instr) (p : Params) : (i.accesses p).length ≤ 7 := by
  cases i <;> simp [Instr.accesses]

end Sys2Proof

namespace Sys2Proof.Machine

variable {i : Instr} {s t : State} {j : Nat}

/-! ### Every operation by its checks -/

/-- An operation that passes its checks makes the accesses of its table and then ends. -/
theorem exec_run (hi : i.admitted s) (h : exec i s = .next t) :
    AccessRun i.unit i.Ends (i.accesses s.cfg.params) (i.start s) t := by
  cases i with
  | accEnable rate range =>
    obtain ⟨hrate, hrange⟩ := hi
    simp only [exec, execAccEnable, hrate, hrange, Bool.not_true, Bool.false_eq_true, if_false] at h
    cases h
    exact .call (fun _ => rfl) fun _ _ _ => .call (fun _ => rfl) fun _ _ _ => .ended rfl
  | accDisable =>
    cases h
    exact .call (fun _ => rfl) fun _ _ _ => .ended rfl
  | accRead =>
    cases h
    refine .call (fun _ => rfl) fun _ _ _ => .call (fun _ => rfl) fun _ _ _ => .call (fun _ => rfl) fun _ _ _ =>
      .call (fun _ => rfl) fun _ _ _ => .call (fun _ => rfl) fun _ _ _ => .call (fun _ => rfl) fun _ _ _ =>
      .call (fun _ => rfl) fun _ _ _ => .ended ?_
    split
    · exact .inl ⟨_, _, _, rfl⟩
    · exact .inr rfl
  | accRdrange =>
    cases h
    exact .call (fun _ => rfl) fun _ _ _ => .ended ⟨_, rfl⟩
  | magInit =>
    cases h
    refine .call (fun _ => rfl) fun _ _ _ => .ended ?_
    split_ifs
    · exact .inl rfl
    · exact .inr rfl
  | magEnable rate range =>
    obtain ⟨hphase, hrate, hrange⟩ := hi
    obtain ⟨key, hkey, -⟩ := magRangeKey_some hrange
    simp only [exec, execMagEnable, constructed_bound hphase, hrate, hkey, Bool.not_true, Bool.false_eq_true,
      if_false] at h
    cases h
    exact .call (fun _ => rfl) fun _ _ _ => .call (fun _ => rfl) fun _ _ _ => .call (fun _ => rfl) fun _ _ _ =>
      .ended ⟨key, hkey, rfl⟩
  | magDisable =>
    simp only [exec, execMagDisable, constructed_bound hi] at h
    cases h
    exact .call (fun _ => rfl) fun _ _ _ => .ended rfl
  | magRead =>
    simp only [exec, execMagRead, constructed_bound hi] at h
    cases h
    refine .call (fun _ => rfl) fun _ _ _ => .call (fun _ => rfl) fun _ _ _ => .call (fun _ => rfl) fun _ _ _ =>
      .ended ?_
    split_ifs
    · exact .inl ⟨_, _, _, rfl⟩
    · exact .inr rfl
  | magRdraw rawFlag =>
    obtain ⟨hphase, rfl⟩ := hi
    simp only [exec, execMagRdraw, constructed_bound hphase, Bool.not_true, Bool.false_eq_true, if_false] at h
    cases h
    exact .call (fun _ => rfl) fun _ _ _ => .call (fun _ => rfl) fun _ _ _ => .call (fun _ => rfl) fun _ _ _ =>
      .ended ⟨_, _, _, rfl⟩

/-- An operation that fails a check ends with an error at once. -/
theorem exec_refused (hi : ¬ i.admitted s) (h : exec i s = .next t) : ∃ st, t = s.raise st := by
  cases i with
  | accDisable | accRead | accRdrange | magInit => exact absurd trivial hi
  | accEnable rate range =>
    cases h
    by_cases hrate : accRateValid s.cfg.params rate
    · have hrange : ¬ accRangeValid s.cfg.params range := fun hrange => hi ⟨hrate, hrange⟩
      exact ⟨.invalidArgumentRange, by simp [hrate, hrange]⟩
    · exact ⟨.invalidArgumentRate, by simp [hrate]⟩
  | magEnable rate range =>
    cases h
    by_cases hphase : s.phase = .unbound
    · exact ⟨.notConstructed, constructed_unbound hphase⟩
    rw [constructed_bound hphase]
    by_cases hrate : magRateValid rate
    · have hrange : ¬ magRangeValid range := fun hrange => hi ⟨hphase, hrate, hrange⟩
      exact ⟨.invalidArgumentRange, by simp [hrate, magRangeKey_none (Bool.not_eq_true _ ▸ hrange)]⟩
    · exact ⟨.invalidArgumentRate, by simp [hrate]⟩
  | magDisable | magRead =>
    cases h
    exact ⟨.notConstructed, constructed_unbound (not_not.mp hi)⟩
  | magRdraw rawFlag =>
    cases h
    by_cases hphase : s.phase = .unbound
    · exact ⟨.notConstructed, constructed_unbound hphase⟩
    rw [constructed_bound hphase]
    have hflag : rawFlag ≠ true := fun hflag => hi ⟨hphase, hflag⟩
    exact ⟨.invalidArgumentRaw, by simp [hflag]⟩

/-! ### The end of an operation -/

/-- How the state in which an operation has ended stands to that after its last access. -/
structure EndFrame (i : Instr) (s t : State) : Prop where
  cfg : t.cfg = s.cfg
  history : t.history = s.history ++ i.delayEvents
  calls : t.calls = s.calls
  answer : (i.delayEvents ≠ [] → s.timerReply = .expires) → t.commandPort = .idle ∧
    ∃ r, t.responses = s.responses ++ [r] ∧ (r.status = .ok ∨ i = .magInit ∧ r.status = .unrecognizedDevice)

/-- An operation ends well if it answers from a state that agrees with the one after its last access, but for the
delay. -/
theorem endFrame_deliver {s' : State} {r : Response} (hcfg : s'.cfg = s.cfg)
    (hhistory : s'.history = s.history ++ i.delayEvents) (hcalls : s'.calls = s.calls)
    (hresponses : s'.responses = s.responses) (hr : r.status = .ok ∨ i = .magInit ∧ r.status = .unrecognizedDevice) :
    EndFrame i s (s'.deliver r) :=
  ⟨hcfg, hhistory, hcalls, fun _ => ⟨rfl, r, congrArg (· ++ [r]) hresponses, hr⟩⟩

/-- ACC_ENABLE ends with its delay, and answers if that expires (R110, R172). -/
theorem endFrame_settle (rate range : Int) :
    EndFrame (.accEnable rate range) s (portDelay accSettleMs s fun s => s.respondOk .none) := by
  cases h : s.timerReply with
  | expires =>
    rw [portDelay_expires h]
    exact endFrame_deliver rfl rfl rfl rfl (.inl rfl)
  | never =>
    rw [portDelay_never h]
    exact ⟨rfl, rfl, rfl, fun hexp => by simp [h, Instr.delayEvents] at hexp⟩

theorem ends_frame (h : i.Ends s t) : EndFrame i s t := by
  have hnil : s.history = s.history ++ [] := (List.append_nil _).symm
  cases i with
  | accEnable rate range => exact h ▸ endFrame_settle rate range
  | accDisable | magDisable => exact h ▸ endFrame_deliver rfl hnil rfl rfl (.inl rfl)
  | accRead | magRead => obtain ⟨_, _, _, rfl⟩ | rfl := h <;> exact endFrame_deliver rfl hnil rfl rfl (.inl rfl)
  | accRdrange => obtain ⟨_, rfl⟩ := h; exact endFrame_deliver rfl hnil rfl rfl (.inl rfl)
  | magInit =>
    obtain rfl | rfl := h
    · exact endFrame_deliver rfl hnil rfl rfl (.inl rfl)
    · exact endFrame_deliver rfl hnil rfl rfl (.inr ⟨rfl, rfl⟩)
  | magEnable => obtain ⟨_, _, rfl⟩ := h; exact endFrame_deliver rfl hnil rfl rfl (.inl rfl)
  | magRdraw => obtain ⟨_, _, _, rfl⟩ := h; exact endFrame_deliver rfl hnil rfl rfl (.inl rfl)

/-! ### The history after an operation -/

/-- The history grows by a first part of the operation's accesses, and may then grow by its delay. -/
theorem exec_history (h : exec i s = .next t) :
    ∃ n ≤ (i.accesses s.cfg.params).length, ∃ ds, (ds = [] ∨ ds = i.delayEvents) ∧
      t.history = s.history ++ (i.events s n ++ ds) := by
  by_cases hi : i.admitted s
  · obtain hend | ⟨n, hn, hh⟩ := (exec_run hi h).history
    · refine ⟨_, le_rfl, _, .inr rfl, ?_⟩
      rw [(ends_frame hend).history, State.afterAccesses_history, Instr.start_history, Instr.start_accessEvents,
        List.append_assoc]
    · refine ⟨n, hn, [], .inl rfl, ?_⟩
      rw [hh, Instr.start_history, Instr.start_accessEvents, List.append_nil]
  · obtain ⟨st, rfl⟩ := exec_refused hi h
    exact ⟨0, Nat.zero_le _, [], .inl rfl, by simp [instrEvents_eq]⟩

/-- The one delay is the 10 ms of an accelerometer operation (R47, R200). -/
theorem delayEvents_eq : i.delayEvents = [] ∨ i.delayEvents = [.delay 10] ∧ i.unit = .acc := by
  cases i with
  | accEnable => exact .inr ⟨rfl, rfl⟩
  | accDisable | accRead | accRdrange | magInit | magEnable | magDisable | magRead | magRdraw => exact .inl rfl

/-! ### The parameters -/

theorem exec_cfg (h : exec i s = .next t) : t.cfg = s.cfg := by
  by_cases hi : i.admitted s
  · have hP : KeptByUpdates (·.cfg = s.cfg) :=
      ⟨fun _ _ h => h, fun _ _ h => h, fun _ h => h, fun _ h => h, fun _ h => h, fun _ h => h⟩
    have hends : ∀ s' t', i.Ends s' t' → s'.cfg = s.cfg → t'.cfg = s.cfg :=
      fun _ _ hend hcfg => (ends_frame hend).cfg.trans hcfg
    exact (exec_run hi h).keeps hP hends (Instr.start_cfg i s)
  · obtain ⟨st, rfl⟩ := exec_refused hi h
    rfl

/-! ### The obligations -/

/-- Settles O15: neither an operation nor the sequencer's own updates write the parameters. -/
theorem noStepChangesTheParameters : Obligations.NoStepChangesTheParameters := by
  intro s t h
  obtain rfl | rfl | ⟨i, hi⟩ | rfl := step_cases h
  · rfl
  · rfl
  · exact (exec_cfg hi).trans (State.accept_cfg s)
  · rfl

/-- Settles O47, by the run of the operation's accesses to its end. -/
theorem completedOperationFollowsTheAccessTable : Obligations.CompletedOperationFollowsTheAccessTable := by
  intro i s hi hc hexp
  obtain ⟨t, ht⟩ := exec_next i s
  have hend := (exec_run hi ht).completed (by rwa [Instr.start_completesFirst])
  obtain ⟨-, hhistory, hcalls, hanswer⟩ := ends_frame hend
  obtain ⟨hport, r, hresponses, hstatus⟩ := hanswer (by simpa using hexp)
  refine ⟨t, r, ht, ?_, ?_, hport, by simpa using hresponses, hstatus⟩
  · rw [hhistory, State.afterAccesses_history, Instr.start_history, Instr.start_accessEvents]
  · rw [hcalls, State.afterAccesses_calls le_rfl, Instr.start_calls]

/-- Settles O49, by the run of the operation's accesses up to the call that stalls. -/
theorem stalledCallLeavesTheMachineBusyWithoutAResponse :
    Obligations.StalledCallLeavesTheMachineBusyWithoutAResponse := by
  intro i s j hi hj hc hstall
  obtain ⟨t, ht⟩ := exec_next i s
  obtain ⟨e, he, -⟩ | ⟨-, rfl⟩ :=
    (exec_run hi ht).interrupted hj (by rwa [Instr.start_completesFirst]) (by simp [hstall])
  · rw [Instr.start_portReply, hstall] at he
    cases he
  refine ⟨_, ht, ?_, by simp, rfl, ?_, by simp⟩
  · rw [State.hang_history, State.afterAccesses_history, Instr.start_history, Instr.start_accessEvents]
  · rw [State.hang_calls, State.afterAccesses_calls hj, Instr.start_calls]

/-- Settles O51: the events of the accesses are calls of the operation's unit, and what may follow is the delay. -/
theorem historyOnlyGrowsByTheUnitsOwnCalls : Obligations.HistoryOnlyGrowsByTheUnitsOwnCalls := by
  intro i s t h
  obtain ⟨n, hn, ds, hds, hh⟩ := exec_history h
  have hcalls : ∀ e ∈ i.events s n, e.unit? = some i.unit := fun e he => unit_of_mem_accessEvents he
  have hlen : (i.events s n).length ≤ 7 := (accessEvents_length_le n).trans (hn.trans (i.accesses_length_le _))
  have hnodelay : ∀ e ∈ i.events s n, e.isDelay = false := fun e he => by simp [Event.isDelay, hcalls e he]
  have hds : ds = [] ∨ ds = [.delay 10] ∧ i.unit = .acc := by
    obtain rfl | rfl := hds
    · exact .inl rfl
    · exact delayEvents_eq
  have hfilter : ds.filter (fun e => !e.isDelay) = [] ∧ (ds.filter Event.isDelay).length ≤ 1 := by
    obtain rfl | ⟨rfl, -⟩ := hds <;> decide
  obtain ⟨hds_calls, hds_delays⟩ := hfilter
  refine ⟨_, hh, ?_, ?_, fun e he => ?_⟩
  · rw [List.filter_append, hds_calls, List.append_nil]
    exact (List.length_filter_le _ _).trans hlen
  · have hnil : (i.events s n).filter Event.isDelay = [] :=
      List.filter_eq_nil_iff.mpr fun e he => by simp [hnodelay e he]
    rwa [List.filter_append, hnil, List.nil_append]
  · obtain he | he := List.mem_append.mp he
    · exact .inl (hcalls e he)
    · obtain rfl | ⟨rfl, hacc⟩ := hds
      · cases he
      · exact .inr ⟨List.mem_singleton.mp he, hacc⟩

end Sys2Proof.Machine
end

section
/-! PROOFS. The values of the port reads (R33, R34, R35), and the two disables issued twice (R42). -/

namespace Sys2Proof.Machine

variable {s : State} {b0 b1 b2 : Byte}

/-! ### The values of the reads -/

/-- A byte appended to a word is its least significant byte (R38). -/
theorem toNat_append_byte {w : Nat} (x : BitVec w) (b : Byte) : (x ++ b).toNat = 256 * x.toNat + b.toNat := by
  rw [BitVec.toNat_append, ← Nat.shiftLeft_add_eq_or_of_lt b.isLt, Nat.shiftLeft_eq, Nat.mul_comm]

/-- Settles O16: two's complement subtracts a power of 256 from the upper half of the unsigned values. -/
theorem portReadsExtendAndOrderTheirBytes : Obligations.PortReadsExtendAndOrderTheirBytes := by
  intro b0 b1 b2
  refine ⟨rfl, ?_, ?_, ?_⟩
  · rw [valueI8, BitVec.toInt_eq_toNat_cond]
    split_ifs <;> omega
  · rw [valueI16be, BitVec.toInt_eq_toNat_cond, toNat_append_byte]
    split_ifs <;> omega
  · rw [valueU24be, toNat_append_byte, toNat_append_byte]
    omega

/-! ### The disables -/

@[simp] theorem State.portReply_deliver (r : Response) (j : Nat) : (s.deliver r).portReply j = s.portReply j := rfl

theorem exec_accDisable_completes (h : s.portReply 0 = .completes b0 b1 b2) :
    exec .accDisable s = .next ((s.afterCall.record
      (.w8 .acc s.cfg.params.aCtrl1 s.cfg.params.accCtrl1Disable (.value ()))).respondOk .none) :=
  congrArg Host.Outcome.next (portCall_completes h)

theorem exec_magDisable_completes (hphase : s.phase ≠ .unbound) (h : s.portReply 0 = .completes b0 b1 b2) :
    exec .magDisable s = .next (((s.afterCall.record
      (.w8 .mag s.cfg.params.mMode s.cfg.params.magModeSleep (.value ()))).setPhase .disabled).respondOk .none) :=
  congrArg Host.Outcome.next ((constructed_bound hphase).trans (portCall_completes h))

/-- Settles O57: the second disable finds the same parameters, and a unit that is not unbound. -/
theorem disablingTwiceRepeatsTheWriteAndKeepsTheState :
    Obligations.DisablingTwiceRepeatsTheWriteAndKeepsTheState := by
  intro s accOff magOff hc hacc hmag
  subst hacc hmag
  obtain ⟨_, _, _, hfirst⟩ := hc 0 (by decide)
  obtain ⟨b0, b1, b2, hsecond⟩ := hc 1 (by decide)
  refine ⟨?_, fun hphase => ?_⟩
  · refine ⟨_, _, exec_accDisable_completes hfirst, exec_accDisable_completes (b0 := b0) (b1 := b1) (b2 := b2) ?_, rfl,
      ?_, rfl, rfl⟩
    · simpa using hsecond
    · simp
  · refine ⟨_, _, exec_magDisable_completes hphase hfirst,
      exec_magDisable_completes (b0 := b0) (b1 := b1) (b2 := b2) ?_ ?_, rfl, ?_, rfl, rfl⟩
    · simp
    · simpa using hsecond
    · simp

end Sys2Proof.Machine
end

section
/-! PROOFS. Decoding and encoding (R60 to R71): a word is its fields, a row selects exactly the words that encode what
it builds from their fields, and the operation codes tell the rows apart. -/

namespace Sys2Proof

variable {cw : CommandWord} {r r' : OpcodeRow} {i : Instr}

/-! ### A word is its fields -/

/-- The five fields cover a command word (R60). -/
theorem commandWord_eq_iff_fields {a b : CommandWord} :
    a = b ↔ opcField a = opcField b ∧ a.extractLsb' 17 7 = b.extractLsb' 17 7 ∧ rawField a = rawField b ∧
      a.extractLsb' 8 8 = b.extractLsb' 8 8 ∧ a.extractLsb' 0 8 = b.extractLsb' 0 8 := by
  refine ⟨fun h => h ▸ ⟨rfl, rfl, rfl, rfl, rfl⟩, fun h => BitVec.eq_of_toNat_eq ?_⟩
  simp only [opcField, rawField, BitVec.toNat_eq, BitVec.extractLsb'_toNat, Nat.shiftRight_eq_div_pow,
    BitVec.getLsbD, Nat.testBit_eq_decide_div_mod_eq, decide_eq_decide] at h
  omega

/-- A word is the encoding of an instruction if its fields are the instruction's and its reserved bits are zero. -/
theorem encode_eq_iff :
    encode i = cw ↔ opcField cw = i.opc ∧ cw.extractLsb' 17 7 = 0#7 ∧ rawField cw = i.rawFlag ∧
      cw.extractLsb' 8 8 = BitVec.ofInt 8 i.rate ∧ cw.extractLsb' 0 8 = BitVec.ofInt 8 i.range := by
  obtain ⟨hopc, hraw, hrate, hrange, hreserved⟩ := Laws.EncodedFields.all i
  rw [eq_comm, commandWord_eq_iff_fields, hopc, hraw, hrate, hrange, hreserved]

/-! ### Operands and their bytes -/

@[simp] theorem ofInt_rateField : BitVec.ofInt 8 (rateField cw) = cw.extractLsb' 8 8 := BitVec.ofInt_toInt

@[simp] theorem ofInt_rangeField : BitVec.ofInt 8 (rangeField cw) = cw.extractLsb' 0 8 := BitVec.ofInt_toInt

theorem operandFits_iff {n : Int} : operandFits n = true ↔ -128 ≤ n ∧ n ≤ 127 := by simp [operandFits]

/-- Sign extension gives an operand of R61 whatever the byte. -/
theorem operandFits_toInt (b : Byte) : operandFits b.toInt = true := by
  have hlo := BitVec.le_toInt b
  have hhi := BitVec.toInt_lt (x := b)
  exact operandFits_iff.mpr (by omega)

/-- Sign extension gives back an operand of R61 from its low byte. -/
theorem toInt_ofInt_of_operandFits {n : Int} (h : operandFits n = true) : (BitVec.ofInt 8 n).toInt = n := by
  obtain ⟨hlo, hhi⟩ := operandFits_iff.mp h
  exact BitVec.toInt_ofInt_eq_self (by decide) (by simpa using hlo) (by omega)

/-- The operands of a well-formed instruction fit their fields; one it does not have is zero (R69). -/
theorem operandFits_of_wellFormed (h : i.wellFormed = true) :
    operandFits i.rate = true ∧ operandFits i.range = true := by
  cases i with
  | accEnable | magEnable => simpa [Instr.wellFormed, Instr.rate, Instr.range] using h
  | accDisable | accRead | accRdrange | magInit | magDisable | magRead | magRdraw => exact ⟨rfl, rfl⟩

/-- The operands of a well-formed instruction are read back from its command word. -/
theorem fields_encode (h : i.wellFormed = true) :
    rateField (encode i) = i.rate ∧ rangeField (encode i) = i.range ∧ rawField (encode i) = i.rawFlag := by
  obtain ⟨hrateFits, hrangeFits⟩ := operandFits_of_wellFormed h
  obtain ⟨-, hraw, hrate, hrange, -⟩ := Laws.EncodedFields.all i
  rw [rateField, rangeField, hrate, hrange]
  exact ⟨toInt_ofInt_of_operandFits hrateFits, toInt_ofInt_of_operandFits hrangeFits, hraw⟩

/-! ### The rows of the opcode map -/

/-- A row looks at each field by itself (R63). -/
theorem selects_iff_fields :
    r.selects cw = true ↔ opcField cw &&& opcField r.mask = opcField r.mtch ∧
      cw.extractLsb' 17 7 &&& r.mask.extractLsb' 17 7 = r.mtch.extractLsb' 17 7 ∧
      (rawField cw && rawField r.mask) = rawField r.mtch ∧
      cw.extractLsb' 8 8 &&& r.mask.extractLsb' 8 8 = r.mtch.extractLsb' 8 8 ∧
      cw.extractLsb' 0 8 &&& r.mask.extractLsb' 0 8 = r.mtch.extractLsb' 0 8 := by
  rw [OpcodeRow.selects, beq_iff_eq, commandWord_eq_iff_fields]
  simp only [opcField, rawField, BitVec.extractLsb'_and, BitVec.getLsbD_and]

/-- R63, R69: a row selects exactly the words that encode what the row builds from their fields. -/
theorem selects_iff_encode_build (hr : r ∈ opcodeTable) :
    r.selects cw = true ↔ encode (r.build (rateField cw) (rangeField cw) (rawField cw)) = cw := by
  have hones : ∀ b : Byte, b &&& 0xFF#8 = b := fun b => BitVec.and_allOnes
  have hones7 : ∀ b : BitVec 7, b &&& 0x7F#7 = b := fun b => BitVec.and_allOnes
  rw [selects_iff_fields, encode_eq_iff]
  simp only [opcodeTable, List.mem_cons, List.not_mem_nil, or_false] at hr
  obtain rfl | rfl | rfl | rfl | rfl | rfl | rfl | rfl | rfl := hr <;>
    simp [opcField, rawField, Instr.opc, Instr.rate, Instr.range, Instr.rawFlag, hones, hones7]

/-- Every instruction is what some row builds from its operands (R63). -/
theorem exists_row_build (i : Instr) : ∃ r ∈ opcodeTable, r.build i.rate i.range i.rawFlag = i := by
  cases i <;> simp [opcodeTable, Instr.rate, Instr.range, Instr.rawFlag]

/-- What a row builds from a word's fields is well-formed: sign extension keeps the operands in range (R61). -/
theorem build_wellFormed (hr : r ∈ opcodeTable) :
    (r.build (rateField cw) (rangeField cw) (rawField cw)).wellFormed = true := by
  have hrate : operandFits (rateField cw) = true := operandFits_toInt _
  have hrange : operandFits (rangeField cw) = true := operandFits_toInt _
  simp only [opcodeTable, List.mem_cons, List.not_mem_nil, or_false] at hr
  obtain rfl | rfl | rfl | rfl | rfl | rfl | rfl | rfl | rfl := hr <;> simp [Instr.wellFormed, hrate, hrange]

/-- R71: every mask covers the operation code. -/
theorem opcField_of_selects (hr : r ∈ opcodeTable) (h : r.selects cw = true) : opcField cw = opcField r.mtch := by
  have hmask : ∀ r ∈ opcodeTable, opcField r.mask = BitVec.allOnes 8 := by decide
  obtain ⟨hopc, -⟩ := selects_iff_fields.mp h
  rwa [hmask r hr, BitVec.and_allOnes] at hopc

/-- R71: no two rows have one operation code, so a word selects one row at most. -/
theorem row_unique (hr : r ∈ opcodeTable) (hr' : r' ∈ opcodeTable) (h : r.selects cw = true)
    (h' : r'.selects cw = true) : r' = r := by
  have hdistinct : (opcodeTable.map fun r => opcField r.mtch).Nodup := by decide
  exact List.inj_on_of_nodup_map hdistinct hr' hr
    ((opcField_of_selects hr' h').symm.trans (opcField_of_selects hr h))

/-! ### The decoder -/

/-- A word is rejected if no row selects it (R65, R71). -/
theorem decodeWord_of_unselected (h : ∀ r ∈ opcodeTable, r.selects cw = false) :
    decodeWord cw = .error (rejection cw) := by
  rw [decodeWord, List.find?_eq_none.mpr (by simpa using h)]

/-- A word decodes to what the row it selects builds from its fields (R71). -/
theorem decodeWord_of_selects (hr : r ∈ opcodeTable) (h : r.selects cw = true) :
    decodeWord cw = .ok (r.build (rateField cw) (rangeField cw) (rawField cw)) := by
  cases hfind : opcodeTable.find? (fun r => r.selects cw) with
  | none => exact absurd h (List.find?_eq_none.mp hfind r hr)
  | some r' =>
    have hsel : r'.selects cw = true := List.find?_some (p := fun r : OpcodeRow => r.selects cw) hfind
    rw [decodeWord, hfind, row_unique hr (List.mem_of_find?_eq_some hfind) h hsel]

/-- A word selects some row of the opcode map or none (R71). -/
theorem selects_or_unselected (cw : CommandWord) :
    (∃ r ∈ opcodeTable, r.selects cw = true) ∨ ∀ r ∈ opcodeTable, r.selects cw = false := by
  by_cases h : ∃ r ∈ opcodeTable, r.selects cw = true
  · exact .inl h
  · exact .inr (by simpa using h)

/-! ### Round trips -/

/-- The row of a well-formed instruction selects its command word. -/
theorem decodeWord_encode (h : i.wellFormed = true) : decodeWord (encode i) = .ok i := by
  obtain ⟨hrate, hrange, hraw⟩ := fields_encode h
  obtain ⟨r, hr, hbuild⟩ := exists_row_build i
  have hfields : r.build (rateField (encode i)) (rangeField (encode i)) (rawField (encode i)) = i := by
    rw [hrate, hrange, hraw, hbuild]
  rw [decodeWord_of_selects hr ((selects_iff_encode_build hr).mpr (congrArg encode hfields)), hfields]

theorem encode_of_decodeWord (h : decodeWord cw = .ok i) : i.wellFormed = true ∧ encode i = cw := by
  obtain ⟨r, hr, hsel⟩ | hnone := selects_or_unselected cw
  · rw [decodeWord_of_selects hr hsel] at h
    cases h
    exact ⟨build_wellFormed hr, (selects_iff_encode_build hr).mp hsel⟩
  · rw [decodeWord_of_unselected hnone] at h
    cases h

/-- A word that is the encoding of no instruction is rejected. -/
theorem decodeWord_error_of_encode_ne (h : ∀ i, encode i ≠ cw) : ∃ e, decodeWord cw = .error e := by
  cases hd : decodeWord cw with
  | ok i => exact absurd (encode_of_decodeWord hd).2 (h i)
  | error e => exact ⟨e, rfl⟩

/-! ### The fields an operation does not use -/

/-- Only MAG_RDRAW has a raw flag (R66). -/
theorem Instr.rawFlag_of_opc_ne (h : i.opc ≠ 0x24#8) : i.rawFlag = false := by
  cases i with
  | magRdraw => exact absurd rfl h
  | accEnable | accDisable | accRead | accRdrange | magInit | magEnable | magDisable | magRead => rfl

/-- Only ACC_ENABLE and MAG_ENABLE have operands (R66). -/
theorem Instr.operands_of_opc_ne (hacc : i.opc ≠ 0x10#8) (hmag : i.opc ≠ 0x21#8) : i.rate = 0 ∧ i.range = 0 := by
  cases i with
  | accEnable => exact absurd rfl hacc
  | magEnable => exact absurd rfl hmag
  | accDisable | accRead | accRdrange | magInit | magDisable | magRead | magRdraw => exact ⟨rfl, rfl⟩

/-- The operand bits of R66 are the rate byte over the range byte. -/
theorem operandBits_eq_zero (hrate : cw.extractLsb' 8 8 = 0#8) (hrange : cw.extractLsb' 0 8 = 0#8) :
    cw.extractLsb' 0 16 = 0#16 := by
  have happend : cw.extractLsb' 8 8 ++ cw.extractLsb' 0 8 = cw.extractLsb' 0 16 :=
    BitVec.extractLsb'_append_extractLsb'_eq_extractLsb' rfl
  rw [← happend, hrate, hrange]
  rfl

/-! ### The obligations -/

/-- Settles O1: the instruction's own row selects its word, and sign extension gives its operands back. -/
theorem decodeOfEncodeGivesTheInstruction : Obligations.DecodeOfEncodeGivesTheInstruction :=
  fun _ => decodeWord_encode

/-- Settles O2: a row selects only the words that encode what it builds from their fields. -/
theorem encodeOfDecodeGivesTheWord : Obligations.EncodeOfDecodeGivesTheWord :=
  fun _ _ => encode_of_decodeWord

/-- Settles O3: the rows differ in the operation code, which every mask covers. -/
theorem everyWordSelectsExactlyOneRowOrIsIllegal : Obligations.EveryWordSelectsExactlyOneRowOrIsIllegal := by
  intro cw
  obtain ⟨r, hr, hsel⟩ | hnone := selects_or_unselected cw
  · exact .inl ⟨r, hr, hsel, fun _ hr' => row_unique hr hr' hsel, decodeWord_of_selects hr hsel⟩
  · exact .inr ⟨hnone, _, decodeWord_of_unselected hnone⟩

/-- Settles O4: the encodings of R69 have their reserved bits zero, and so the fields their operations do not use. -/
theorem reservedBitsMakeAWordIllegal : Obligations.ReservedBitsMakeAWordIllegal := by
  refine fun cw => ⟨fun hreserved => decodeWord_error_of_encode_ne fun i hi => ?_,
    fun hraw hopc => decodeWord_error_of_encode_ne fun i hi => ?_,
    fun hlow hacc hmag => decodeWord_error_of_encode_ne fun i hi => ?_⟩
  · obtain ⟨-, hzero, -⟩ := encode_eq_iff.mp hi
    exact hreserved hzero
  · obtain ⟨hop, -, hflag, -⟩ := encode_eq_iff.mp hi
    rw [Instr.rawFlag_of_opc_ne (hop ▸ hopc : i.opc ≠ 0x24#8)] at hflag
    exact Bool.false_ne_true (hflag.symm.trans hraw)
  · obtain ⟨hop, -, -, hrate, hrange⟩ := encode_eq_iff.mp hi
    obtain ⟨hrate0, hrange0⟩ := Instr.operands_of_opc_ne (hop ▸ hacc : i.opc ≠ 0x10#8) (hop ▸ hmag)
    rw [hrate0] at hrate
    rw [hrange0] at hrange
    exact hlow (operandBits_eq_zero hrate hrange)

/-- Settles O5: each word evaluated. -/
theorem specWordsDecodeAsTheSpecSays : Obligations.SpecWordsDecodeAsTheSpecSays := by
  unfold Obligations.SpecWordsDecodeAsTheSpecSays
  decide

end Sys2Proof
end

section
/-! PROOFS. One step by the host's next input (R65, R71, R72), and what an operation answers: one response that fits it,
or none and a busy port (R62, R172). -/

namespace Sys2Proof

/-- `NV` of an operation that ends with OK (R62). -/
def Instr.okWords : Instr → Nat
  | .accRead | .magRead | .magRdraw _ => 3
  | .accRdrange => 1
  | .accEnable _ _ | .accDisable | .magInit | .magEnable _ _ | .magDisable => 0

end Sys2Proof

namespace Sys2Proof.Machine

variable {s t : State} {i : Instr}

/-! ### One step -/

/-- Accepting takes off the host's input at hand and makes the port busy. -/
theorem State.accept_eq {input : HostInput} {rest : List HostInput} (h : s.hostInputs = input :: rest) :
    s.accept = { s with hostInputs := rest, commandPort := .busy } := by
  simp [State.accept, State.takeInput, h]

/-- Settles O6: the word is accepted, decoded and run. -/
theorem stepRunsTheDecodedInstruction : Obligations.StepRunsTheDecodedInstruction := by
  intro s cw rest i hin hidle hd
  rw [step_legalCommand hin hidle hd, State.accept_eq hin]

/-- Settles O7: the word is accepted and answered, which leaves the port idle as it was. -/
theorem illegalCommandIsAnsweredAndChangesNothing : Obligations.IllegalCommandIsAnsweredAndChangesNothing := by
  refine ⟨rfl, fun s cw rest hin hidle hnone => ?_⟩
  have hd : decodeWord cw = .error (rejection cw) :=
    decodeWord_of_unselected fun r hr => by simpa [OpcodeRow.selects] using hnone r hr
  rw [step_illegalCommand hin hidle hd, illegalCommand, State.accept_eq hin, hidle]
  rfl

/-- Settles O8: with no input there is nothing to take, and a command waits while the port is busy. -/
theorem busyOrUnaskedMachineStaysAsItIs : Obligations.BusyOrUnaskedMachineStaysAsItIs :=
  fun _ => ⟨step_noInput, fun _ _ => step_waitingCommand⟩

/-- Settles O14: a turn that runs a word runs an operation, which answers a next state, or answers the word. -/
theorem everyStepAnswersANextState : Obligations.EveryStepAnswersANextState := by
  intro s
  unfold step
  split
  · exact ⟨_, rfl⟩
  · split
    · exact exec_next _ _
    · exact ⟨_, rfl⟩

/-! ### What an operation answers -/

/-- The response fits the operation: `INFO` with TRANSPORT_ERROR alone, a payload with OK alone and of the operation's
length (R62). -/
structure Response.Fits (r : Response) (i : Instr) : Prop where
  info : r.info.isSome = true ↔ r.status = .transportError
  error : r.status ≠ .ok → r.payload = .none
  ok : r.status = .ok → r.payload.nv = i.okWords

/-- An operation ended in `t`: with one response that fits it after those of `rs` and an idle port, or it hangs there
with none and a busy port (R62, R72, R172). -/
def AnswersOrHangs (i : Instr) (rs : List Response) (t : State) : Prop :=
  (t.commandPort = .busy ∧ t.responses = rs) ∨
    (t.commandPort = .idle ∧ ∃ r, t.responses = rs ++ [r] ∧ r.Fits i)

variable {rs : List Response}

theorem Response.Fits.of_ok {p : Payload} (h : p.nv = i.okWords) : Response.Fits ⟨.ok, none, p⟩ i :=
  ⟨by simp, fun h => absurd rfl h, fun _ => h⟩

theorem Response.Fits.of_error {st : Status} (hok : st ≠ .ok) (hport : st ≠ .transportError) :
    Response.Fits ⟨st, none, .none⟩ i :=
  ⟨by simpa using hport, fun _ => rfl, fun h => absurd h hok⟩

theorem Response.Fits.of_transportError (e : PortError) : Response.Fits ⟨.transportError, some e, .none⟩ i :=
  ⟨by simp, fun _ => rfl, nofun⟩

namespace AnswersOrHangs

theorem deliver {r : Response} (hs : s.responses = rs) (hr : r.Fits i) : AnswersOrHangs i rs (s.deliver r) :=
  .inr ⟨rfl, r, congrArg (· ++ [r]) hs, hr⟩

theorem ok {p : Payload} (hs : s.responses = rs) (h : p.nv = i.okWords) : AnswersOrHangs i rs (s.respondOk p) :=
  deliver hs (.of_ok h)

theorem error {st : Status} (hs : s.responses = rs) (hok : st ≠ .ok) (hport : st ≠ .transportError) :
    AnswersOrHangs i rs (s.raise st) :=
  deliver hs (.of_error hok hport)

theorem hang (hs : s.responses = rs) : AnswersOrHangs i rs s.hang := .inl ⟨rfl, hs⟩

/-- A port call that fails is answered, and one that stalls hangs. -/
theorem call {α : Type} {event : CallResult α → Event} {value : Byte → Byte → Byte → α} {k : α → State → State}
    (hs : s.responses = rs) (hk : ∀ a s', s'.responses = rs → AnswersOrHangs i rs (k a s')) :
    AnswersOrHangs i rs (portCall event value s k) :=
  portCall_of (fun _ _ _ _ => hk _ _ hs) (fun e => deliver hs (.of_transportError e)) (hang hs)

theorem delay {ms : Nat} {k : State → State} (hs : s.responses = rs)
    (hk : ∀ s', s'.responses = rs → AnswersOrHangs i rs (k s')) : AnswersOrHangs i rs (portDelay ms s k) :=
  portDelay_of (hk _ hs) (hang hs)

theorem phaseCheck {k : State → State} (hs : s.responses = rs) (hk : AnswersOrHangs i rs (k s)) :
    AnswersOrHangs i rs (constructed s k) := by
  by_cases h : s.phase = .unbound
  · exact constructed_unbound h ▸ error hs nofun nofun
  · exact constructed_bound h ▸ hk

end AnswersOrHangs

open AnswersOrHangs in
/-- Every operation is made of calls, a delay and checks, and ends with a response of its own. -/
theorem exec_answersOrHangs (h : exec i s = .next t) : AnswersOrHangs i s.responses t := by
  cases i with
  | accEnable rate range =>
    cases h
    split_ifs
    · exact error rfl nofun nofun
    · exact error rfl nofun nofun
    · exact call rfl fun _ _ h1 => call h1 fun _ _ h2 => delay h2 fun _ h3 => ok h3 rfl
  | accDisable =>
    cases h
    exact call rfl fun _ _ h1 => ok h1 rfl
  | accRead =>
    cases h
    refine call rfl fun _ _ h1 => call h1 fun _ _ h2 => call h2 fun _ _ h3 => call h3 fun _ _ h4 =>
      call h4 fun _ _ h5 => call h5 fun _ _ h6 => call h6 fun _ _ h7 => ?_
    split
    · exact ok h7 rfl
    · exact ok h7 rfl
  | accRdrange =>
    cases h
    exact call rfl fun _ _ h1 => ok h1 rfl
  | magInit =>
    cases h
    refine call rfl fun _ _ h1 => ?_
    split_ifs
    · exact ok h1 rfl
    · exact error h1 nofun nofun
  | magEnable rate range =>
    cases h
    refine phaseCheck rfl ?_
    split_ifs
    · exact error rfl nofun nofun
    · cases magRangeKey range with
      | none => exact error rfl nofun nofun
      | some key => exact call rfl fun _ _ h1 => call h1 fun _ _ h2 => call h2 fun _ _ h3 => ok h3 rfl
  | magDisable =>
    cases h
    exact phaseCheck rfl (call rfl fun _ _ h1 => ok h1 rfl)
  | magRead =>
    cases h
    refine phaseCheck rfl (call rfl fun _ _ h1 => call h1 fun _ _ h2 => call h2 fun _ _ h3 => ?_)
    split_ifs
    · exact ok h3 rfl
    · exact ok h3 rfl
  | magRdraw rawFlag =>
    cases h
    refine phaseCheck rfl ?_
    split_ifs
    · exact error rfl nofun nofun
    · exact call rfl fun _ _ h1 => call h1 fun _ _ h2 => call h2 fun _ _ h3 => ok h3 rfl

/-- Settles O50: every way an operation can end is an answer that fits it or a hang. -/
theorem everyOperationGivesOneResponseOrHangs : Obligations.EveryOperationGivesOneResponseOrHangs := by
  intro i s t h
  obtain hhang | ⟨hidle, r, hresponses, hinfo, herror, hok⟩ := exec_answersOrHangs h
  · exact .inl hhang
  · refine .inr ⟨hidle, r, hresponses, hinfo, herror, fun hst => (hok hst).trans ?_⟩
    cases i <;> rfl

end Sys2Proof.Machine
end

section
/-! PROOFS. The integers of the datapath: the sample and the range field (R82 to R84), the gain multiplexer and table
(R85, R88), the saturation detector (R89). -/

namespace Sys2Proof.Machine

/-! ### The sample and the range field -/

theorem int_shiftRight_four (n : Int) : n >>> (4 : Int) = n / 16 :=
  (Int.shiftRight_natCast_right n 4).trans (Int.shiftRight_eq_div_pow n 4)

theorem toNat_highNibble (lb : Byte) : (lb.extractLsb' 4 4).toNat = lb.toNat / 16 := by
  have := lb.isLt
  rw [BitVec.extractLsb'_toNat, Nat.shiftRight_eq_div_pow]
  omega

theorem accAssemble_eq_highNibble (h : Int) (lb : Byte) :
    accAssemble h lb.toNat = (BitVec.ofInt 12 (h <<< 4) ||| BitVec.ofInt 12 (lb.extractLsb' 4 4).toNat).toInt := by
  rw [accAssemble, toNat_highNibble, int_shiftRight_four]
  rfl

/-- R82, as a sum. -/
theorem accAssemble_eq_add (hb lb : Byte) : accAssemble hb.toInt lb.toNat = 16 * hb.toInt + lb.toNat / 16 := by
  rw [accAssemble_eq_highNibble, or_nibble, toNat_highNibble]
  rfl

/-- Settles O17. -/
theorem sampleAssemblyIsTwelveBitSignExtension : Obligations.SampleAssemblyIsTwelveBitSignExtension := by
  intro hb lb
  have hlb := lb.isLt
  have hlo := BitVec.le_toInt hb
  have hhi := BitVec.toInt_lt (x := hb)
  have hpattern : (hb ++ lb.extractLsb' 4 4).toInt = 16 * hb.toInt + lb.toNat / 16 := by
    rw [BitVec.toInt_append, toNat_highNibble]
    rfl
  rw [accAssemble_eq_add, hpattern, BitVec.msb_eq_toInt, decide_eq_true_iff]
  refine ⟨rfl, rfl, ?_, ?_, ?_⟩ <;> omega

/-- Settles O18: only the high nibble enters the assembly. -/
theorem lowNibbleDoesNotReachTheSample : Obligations.LowNibbleDoesNotReachTheSample := by
  intro hb lb lb' h
  rw [accAssemble_eq_highNibble, accAssemble_eq_highNibble, h]

/-- The range field is bits 5 and 4 of the integer's byte, which is the same read unsigned or signed. -/
theorem accRangeField_eq (n : Int) : accRangeField n = (BitVec.ofInt 8 n).extractLsb' 4 2 := by
  apply BitVec.eq_of_toNat_eq
  rw [accRangeField, BitVec.extractLsb'_toNat, BitVec.toNat_ofInt, BitVec.toNat_ofInt, Nat.shiftRight_eq_div_pow,
    int_shiftRight_four]
  omega

/-- Settles O19. -/
theorem rangeFieldIsBitsFiveAndFour : Obligations.RangeFieldIsBitsFiveAndFour := by
  intro b
  rw [accRangeField_eq, accRangeField_eq, BitVec.ofInt_natCast, BitVec.ofNat_toNat, BitVec.setWidth_eq,
    BitVec.ofInt_toInt]
  exact ⟨rfl, rfl⟩

/-! ### The gain multiplexer and table -/

theorem accGain_eq_none_iff {p : Params} {f : BitVec 2} :
    accGain p f = none ↔ f ≠ 0#2 ∧ f ≠ p.accRange4G ∧ f ≠ p.accRange8G := by
  unfold accGain accRange2G
  split_ifs <;> simp [*]

/-- Three distinct 2-bit values, one of them 0, leave one value out. -/
theorem existsUnique_other_code {a b : BitVec 2} (ha : a ≠ 0#2) (hb : b ≠ 0#2) (hab : a ≠ b) :
    ∃! f : BitVec 2, f ≠ 0#2 ∧ f ≠ a ∧ f ≠ b := by
  refine ⟨a ^^^ b, ?_, fun f => ?_⟩
  · revert a b
    decide
  · revert a b f
    decide

/-- Settles O20: the codes of the configuration are distinct, and leave one field value out. -/
theorem gainMultiplexerLeavesOneFieldValueUndefined : Obligations.GainMultiplexerLeavesOneFieldValueUndefined := by
  intro c
  obtain ⟨h4, h8, hne⟩ := ranges_of_config c
  obtain ⟨f, hf, honly⟩ := existsUnique_other_code h4 h8 hne
  refine ⟨rfl, ?_, ?_, f, accGain_eq_none_iff.mpr hf, fun f' hf' => honly f' (accGain_eq_none_iff.mp hf')⟩
  · simp [accGain, accRange2G, h4, float2]
  · simp [accGain, accRange2G, h8, hne.symm, float3p9]

/-- Settles O21. -/
theorem gainTableIsKeyedByRangesOneToSeven : Obligations.GainTableIsKeyedByRangesOneToSeven := by
  refine ⟨rfl, rfl, rfl, rfl, rfl, rfl, rfl, fun range hout => ?_⟩
  have hinvalid : ¬ magRangeValid range = true := by
    rw [magRangeValid, Bool.and_eq_true, decide_eq_true_iff, decide_eq_true_iff]
    omega
  exact dif_neg hinvalid

/-! ### The saturation detector -/

theorem magSat_iff {raw : Int} : magSat raw = true ↔ raw = -4096 := by simp [magSat, magSatRaw]

/-- Settles O22. -/
theorem saturationDetectorFiresOnExactlyOnePattern : Obligations.SaturationDetectorFiresOnExactlyOnePattern := by
  refine ⟨fun _ => magSat_iff, fun b0 b1 _ => ?_⟩
  have hpattern : (0xF000#16).toInt = -4096 := by decide
  rw [magSat_iff, valueI16be, ← hpattern, BitVec.toInt_inj]

end Sys2Proof.Machine
end

section
/-! PROOFS. The numbers of the datapath: the rounding is to the nearest FLOAT (R91), integers convert exactly (R90), the
constants (R92), and the two scalings (R86, R93, R94). -/

namespace Sys2Proof.Machine

/-! ### Rounding to the nearest FLOAT -/

/-- Every finite magnitude has a multiple of the result's last place that is at least as near to the ratio, strictly
nearer unless it is that multiple itself: a FLOAT of a lower place lies below the result's binade. -/
theorem exists_multiple_as_near (num : Nat) {den : Nat} (hd : 0 < den) {y : Float64} (hy : floatFinite y = true) :
    ∃ x : Nat, floatUnits y = x * 2 ^ lastPlace (num / den) ∨
      ((x * (den * 2 ^ lastPlace (num / den) : Nat) : Int) - num).natAbs <
        ((floatUnits y * den : Int) - num).natAbs := by
  obtain ⟨m, j, hunits, hm, -, -⟩ := floatUnits_shape hy
  obtain ⟨-, hplace⟩ := lastPlace_bounds num den
  generalize lastPlace (num / den) = k at *
  by_cases hjk : k ≤ j
  · exact ⟨m * 2 ^ (j - k), .inl (by rw [hunits, Nat.mul_assoc, ← Nat.pow_add, Nat.sub_add_cancel hjk])⟩
  · refine ⟨2 ^ 52, .inr ?_⟩
    have hbinade : 2 ^ 52 * (den * 2 ^ k) ≤ num := by
      rw [← Nat.le_div_iff_mul_le (Nat.mul_pos hd (Nat.two_pow_pos k))]
      omega
    have hbelow : floatUnits y < 2 ^ 52 * 2 ^ k := by
      calc floatUnits y = m * 2 ^ j := hunits
        _ < 2 ^ 53 * 2 ^ j := Nat.mul_lt_mul_of_pos_right hm (Nat.two_pow_pos j)
        _ = 2 ^ 52 * 2 ^ (j + 1) := by rw [Nat.pow_succ 2 j]; ring
        _ ≤ 2 ^ 52 * 2 ^ k := Nat.mul_le_mul_left _ (Nat.pow_le_pow_right (by decide) (by omega))
    have hscaled : floatUnits y * den < 2 ^ 52 * (den * 2 ^ k) := by
      calc floatUnits y * den < 2 ^ 52 * 2 ^ k * den := Nat.mul_lt_mul_of_pos_right hbelow hd
        _ = 2 ^ 52 * (den * 2 ^ k) := by ring
    rw [← Nat.cast_mul, ← Nat.cast_mul]
    generalize den * 2 ^ k = D at *
    generalize floatUnits y * den = Y at *
    omega

/-- No finite FLOAT is nearer to a ratio than its rounding, and the rounding's fraction is even if another is as near. -/
theorem roundUnits_nearest (neg : Bool) {num den : Nat} (hd : 0 < den) (h : roundUnits num den < infBits) {y : Float64}
    (hy : floatFinite y = true) :
    ((floatUnits (floatPack neg (roundUnits num den)) * den : Int) - num).natAbs ≤
      ((floatUnits y * den : Int) - num).natAbs ∧
    (((floatUnits (floatPack neg (roundUnits num den)) * den : Int) - num).natAbs =
        ((floatUnits y * den : Int) - num).natAbs →
      floatUnits y ≠ floatUnits (floatPack neg (roundUnits num den)) →
      floatFrac (floatPack neg (roundUnits num den)) % 2 = 0) := by
  obtain ⟨x, hx⟩ := exists_multiple_as_near num hd hy
  have hparity : nearestEven num (den * 2 ^ lastPlace (num / den)) % 2 = 0 →
      floatFrac (floatPack neg (roundUnits num den)) % 2 = 0 := by
    intro heven
    rw [floatFrac_floatPack neg (roundUnits_lt _ _)]
    unfold roundUnits at h ⊢
    omega
  rw [floatUnits_roundUnits neg h]
  obtain ⟨hle, htie⟩ := nearestEven_nearest num (Nat.mul_pos hd (Nat.two_pow_pos (lastPlace (num / den)))) x
  generalize nearestEven num (den * 2 ^ lastPlace (num / den)) = n at *
  generalize lastPlace (num / den) = k at *
  have hscale (z : Nat) : ((z * 2 ^ k : Nat) * den : Int) = z * (den * 2 ^ k : Nat) := by push_cast; ring
  rw [hscale]
  obtain hx | hx := hx
  · rw [hx, hscale]
    exact ⟨hle, fun heq hne => hparity (htie heq fun hxn => hne (by rw [hxn]))⟩
  · exact ⟨by omega, fun heq => by omega⟩

/-! ### The operations on finite operands -/

variable {a b : Float64}

theorem floatFinite_roundUnits (neg : Bool) (num den : Nat) :
    floatFinite (floatPack neg (roundUnits num den)) = true ↔ roundUnits num den < infBits := by
  rw [floatFinite_floatPack neg (roundUnits_lt num den), decide_eq_true_iff]

theorem floatNeg_roundUnits (neg : Bool) (num den : Nat) : floatNeg (floatPack neg (roundUnits num den)) = neg :=
  floatNeg_floatPack neg (roundUnits_lt num den)

theorem fmul_of_finite (ha : floatFinite a = true) (hb : floatFinite b = true) :
    fmul a b = floatPack (floatNeg a != floatNeg b) (roundUnits (floatUnits a * floatUnits b) unitsPerOne) := by
  simp [fmul, ha, hb]

theorem fdiv_of_finite (ha : floatFinite a = true) (hb : floatFinite b = true) (h0 : floatUnits b ≠ 0) :
    fdiv a b = floatPack (floatNeg a != floatNeg b) (roundUnits (floatUnits a * unitsPerOne) (floatUnits b)) := by
  simp [fdiv, ha, hb, h0]

/-- Settles O24: the product is a rounded ratio to the units of 1.0. -/
theorem productIsRoundedToNearestEven : Obligations.ProductIsRoundedToNearestEven := by
  intro a b y ha hb hfin hy
  rw [fmul_of_finite ha hb] at hfin ⊢
  refine ⟨floatNeg_roundUnits _ _ _, ?_⟩
  rw [← Nat.cast_mul (floatUnits a)]
  exact roundUnits_nearest _ unitsPerOne_pos ((floatFinite_roundUnits _ _ _).mp hfin) hy

/-- Settles O25: the quotient is a rounded ratio to the divisor's units. -/
theorem quotientIsRoundedToNearestEven : Obligations.QuotientIsRoundedToNearestEven := by
  intro a b y ha hb h0 hfin hy
  rw [fdiv_of_finite ha hb h0] at hfin ⊢
  refine ⟨floatNeg_roundUnits _ _ _, ?_⟩
  rw [← Nat.cast_mul (floatUnits a)]
  exact roundUnits_nearest _ (Nat.pos_of_ne_zero h0) ((floatFinite_roundUnits _ _ _).mp hfin) hy

/-! ### Integers -/

/-- An integer below 2 ^ 53 converts to its own magnitude and sign (R90). -/
theorem i2f_exact {n : Int} (h : n.natAbs < 2 ^ 53) :
    floatFinite (i2f n) = true ∧ floatUnits (i2f n) = n.natAbs * unitsPerOne ∧
      floatNeg (i2f n) = decide (n < 0) := by
  obtain ⟨hfin, hunits⟩ := roundUnits_ones h (decide (n < 0))
  exact ⟨(floatFinite_roundUnits _ _ _).mpr hfin, hunits, floatNeg_roundUnits _ _ _⟩

theorem roundUnits_zero (den : Nat) : roundUnits 0 den = 0 := by simp [roundUnits, nearestEven, lastPlace_eq]

theorem i2f_zero : i2f 0 = 0#64 := by
  rw [i2f, Int.natAbs_zero, Nat.zero_mul, roundUnits_zero]
  rfl

/-- Settles O23. -/
theorem integersUpToSixteenBitsConvertExactly : Obligations.IntegersUpToSixteenBitsConvertExactly :=
  ⟨i2f_zero, fun _ h => i2f_exact (by omega)⟩

/-- A product of converted integers is their product converted. (A negative factor would give a zero the sign of it.) -/
theorem fmul_i2f {m n : Int} (hm : m.natAbs < 2 ^ 53) (hn : n.natAbs < 2 ^ 53) (hpos : 0 < n) :
    fmul (i2f m) (i2f n) = i2f (m * n) := by
  obtain ⟨hmfin, hmunits, hmneg⟩ := i2f_exact hm
  obtain ⟨hnfin, hnunits, hnneg⟩ := i2f_exact hn
  have hsign : (decide (m < 0) != decide (n < 0)) = decide (m * n < 0) := by
    simp [hpos.not_gt, mul_neg_iff, hpos]
  have hmag : m.natAbs * unitsPerOne * (n.natAbs * unitsPerOne) = (m * n).natAbs * unitsPerOne * unitsPerOne := by
    rw [Int.natAbs_mul]; ring
  rw [fmul_of_finite hmfin hnfin, hmunits, hnunits, hmneg, hnneg, hsign, hmag, i2f,
    ← roundUnits_mul_mul_right _ 1 unitsPerOne_pos, one_mul]

/-- A quotient of converted integers is their exact ratio, rounded once (R91). -/
theorem fdiv_i2f {m n : Int} (hm : m.natAbs < 2 ^ 53) (hn : n.natAbs < 2 ^ 53) (hpos : 0 < n) :
    fdiv (i2f m) (i2f n) = floatPack (decide (m < 0)) (roundUnits (m.natAbs * unitsPerOne) n.natAbs) := by
  obtain ⟨hmfin, hmunits, hmneg⟩ := i2f_exact hm
  obtain ⟨hnfin, hnunits, hnneg⟩ := i2f_exact hn
  have h0 : floatUnits (i2f n) ≠ 0 := by
    rw [hnunits]
    exact Nat.mul_ne_zero (by omega) unitsPerOne_pos.ne'
  rw [fdiv_of_finite hmfin hnfin h0, hmunits, hnunits, hmneg, hnneg, roundUnits_mul_mul_right _ _ unitsPerOne_pos]
  simp [hpos.not_gt]

/-! ### The constants -/

theorem float100_eq_i2f : float100 = i2f 100 := by decide +kernel

/-- Settles O26. -/
theorem constantsAreTheNearestFloats : Obligations.ConstantsAreTheNearestFloats := by
  refine ⟨rfl, ?_, rfl, ?_, rfl, float100_eq_i2f, rfl, ?_, rfl, ?_, rfl, ?_, rfl, ?_⟩ <;> decide +kernel

/-! ### The scalings -/

theorem fmul_zero_left {g : Float64} (hfin : floatFinite g = true) (hneg : floatNeg g = false) :
    fmul 0#64 g = 0#64 := by
  have hzero : floatUnits 0#64 = 0 := rfl
  rw [fmul_of_finite rfl hfin, hzero, Nat.zero_mul, roundUnits_zero, hneg]
  rfl

/-- Settles O27: the outputs of a sample and of its opposite share their magnitude. -/
theorem accelerometerScalingIsFiniteAndOdd : Obligations.AccelerometerScalingIsFiniteAndOdd := by
  intro raw g hlo hhi hg
  obtain ⟨hgfin, hgneg, -⟩ := accGain_units g hg
  obtain ⟨hufin, huneg, -⟩ := accUnit_units
  obtain ⟨mag, hmag, hraw, hopposite⟩ := accScale_sign raw (by omega) g hg
  have hlt : mag < 2 ^ 63 := hmag.trans (by decide)
  refine ⟨?_, ?_, fun h0 => ?_⟩
  · rw [accScale, i2f_zero, fmul_zero_left hgfin hgneg, fmul_zero_left hufin huneg]
  · rw [hraw, floatFinite_floatPack _ hlt, decide_eq_true hmag]
  · have hsign : decide (-raw < 0) = !decide (raw < 0) := by
      rw [← decide_not, decide_eq_decide]
      omega
    rw [hopposite, hraw, hsign, floatPack_not _ hlt]

/-- Settles O28: the product by 100.0 is exact, so the quotient is the only rounding. -/
theorem magnetometerScalingRoundsTheExactQuotientOnce : Obligations.MagnetometerScalingRoundsTheExactQuotientOnce := by
  intro raw g hlo hhi hg
  have hgpos : 0 < g.toNat := Nat.pos_of_ne_zero fun h => hg (BitVec.eq_of_toNat_eq h)
  have hglt := g.isLt
  have hsign : decide (raw * 100 < 0) = decide (raw < 0) := by
    rw [decide_eq_decide]
    omega
  have hscale : magScale raw g =
      floatPack (decide (raw < 0)) (roundUnits (100 * raw.natAbs * unitsPerOne) g.toNat) := by
    rw [magScale, float100_eq_i2f, fmul_i2f (by omega) (by decide) (by decide),
      fdiv_i2f (by omega) (by omega) (by omega), hsign, Int.natAbs_natCast, Int.natAbs_mul, Nat.mul_comm raw.natAbs]
    rfl
  refine ⟨hscale, ?_⟩
  rw [hscale, floatFinite_roundUnits]
  exact roundUnits_ones_div_finite _ (by omega)

/-- Settles O29: the scaled value is finite, so it is not +INF. -/
theorem outputIsPlusInfinityExactlyWhenSaturated : Obligations.OutputIsPlusInfinityExactlyWhenSaturated := by
  refine ⟨rfl, fun raw g hlo hhi hg => ?_⟩
  obtain ⟨-, hfin⟩ := magnetometerScalingRoundsTheExactQuotientOnce raw g hlo hhi hg
  have hne : magScale raw g ≠ plusInf := by
    intro h
    rw [h] at hfin
    exact absurd hfin (by decide)
  by_cases hsat : raw = -4096
  · have hconvert : magConvert raw g = plusInf := if_pos (magSat_iff.mpr hsat)
    exact ⟨iff_of_true hconvert hsat, fun h => absurd hsat h⟩
  · have hconvert : magConvert raw g = magScale raw g := if_neg fun h => hsat (magSat_iff.mp h)
    rw [hconvert]
    exact ⟨iff_of_false hne hsat, fun _ => rfl⟩

end Sys2Proof.Machine
end

section
/-! PROOFS. The four accelerometer operations (R110 to R113): the state their accesses leave, written whole, and how
each ends once its accesses have completed or its operands are refused. -/

namespace Sys2Proof.Machine

variable {s : State} {u : SensorUnit} {b0 b1 b2 : Byte}

/-! ### The state completed accesses leave -/

/-- A list of accesses uses up answers and appends its events; nothing else changes. -/
theorem State.afterAccesses_eq {as : List Access} {n : Nat} (h : n ≤ as.length) :
    s.afterAccesses u as n =
      { s with
        replies := s.replies.drop n
        calls := s.calls + n
        history := s.history ++ accessEvents u as s n } := by
  induction as generalizing s n with
  | nil =>
    obtain rfl : n = 0 := Nat.le_zero.mp h
    simp
  | cons a as ih =>
    cases n with
    | zero => simp
    | succ n =>
      rw [State.afterAccesses_cons, ih (Nat.le_of_succ_le_succ h), accessEvents_cons]
      simp [State.afterAccess, State.record, State.afterCall, Nat.add_assoc, Nat.add_comm 1]

/-- A byte read that completes hands on the byte, unsigned (R33). -/
theorem portReadU8_completes {addr : Byte} {k : Int → State → State} (h : s.portReply 0 = .completes b0 b1 b2) :
    portReadU8 u addr s k = k b0.toNat (s.afterAccess u (.readU8 addr)) := by
  rw [portReadU8, portCall_completes h, State.afterAccess, h]
  rfl

/-- A signed byte read that completes hands on the byte, sign-extended (R33). -/
theorem portReadI8_completes {addr : Byte} {k : Int → State → State} (h : s.portReply 0 = .completes b0 b1 b2) :
    portReadI8 u addr s k = k b0.toInt (s.afterAccess u (.readI8 addr)) := by
  rw [portReadI8, portCall_completes h, State.afterAccess, h]
  rfl

/-! ### ACC_ENABLE -/

/-- The control byte of a 5-bit rate: the shifted rate and the three enable bits share no bit (R17). -/
theorem accCtrl1Byte_eq (c : BitVec 5) : accCtrl1Byte c.toNat = BitVec.ofInt 8 (8 * c.toNat + 7) := by
  revert c
  decide

/-- The control byte of a range (R18). -/
theorem accCtrl4Byte_eq (range : Int) : accCtrl4Byte range = BitVec.ofInt 8 (16 * range) := by
  rw [mul_comm]
  exact congrArg (BitVec.ofInt 8) ((Int.shiftLeft_natCast_right range 4).trans (Int.shiftLeft_eq range 4))

/-- A valid rate is a 5-bit code and a valid range a 2-bit code (R110). -/
theorem accCtrlBytes_bounds {p : Params} {rate range : Int} (hrate : ∃ c ∈ p.accRateSet, (c.toNat : Int) = rate)
    (hrange : range = 0 ∨ range = p.accRange4G.toNat ∨ range = p.accRange8G.toNat) :
    0 ≤ 8 * rate + 7 ∧ 8 * rate + 7 ≤ 255 ∧ 0 ≤ 16 * range ∧ 16 * range ≤ 48 := by
  obtain ⟨c, -, rfl⟩ := hrate
  have hc := c.isLt
  have h4 := p.accRange4G.isLt
  have h8 := p.accRange8G.isLt
  omega

/-- The state after ACC_ENABLE's two writes (R110). -/
def State.afterAccWrites (s : State) (rate range : Int) : State :=
  { s with
    replies := s.replies.drop 2
    calls := s.calls + 2
    history := s.history ++
      [ .w8 .acc s.cfg.params.aCtrl1 (BitVec.ofInt 8 (8 * rate + 7)) (.value ()),
        .w8 .acc s.cfg.params.aCtrl4 (BitVec.ofInt 8 (16 * range)) (.value ()) ] }

@[simp] theorem State.timerReply_afterAccWrites (rate range : Int) :
    (s.afterAccWrites rate range).timerReply = s.timerReply := rfl

theorem afterAccesses_accEnable (c : BitVec 5) (range : Int) (hc : s.completesFirst 2) :
    s.afterAccesses .acc (Instr.accesses s.cfg.params (.accEnable c.toNat range)) 2 =
      s.afterAccWrites c.toNat range := by
  obtain ⟨_, _, _, h0⟩ := hc 0 (by decide)
  obtain ⟨_, _, _, h1⟩ := hc 1 (by decide)
  rw [State.afterAccesses_eq (by simp [Instr.accesses]), State.afterAccWrites, ← accCtrl1Byte_eq, ← accCtrl4Byte_eq]
  simp [Instr.accesses, accessEvents_cons, Access.event, CallResult.ofReply, h0, h1]

/-- ACC_ENABLE whose operands are valid and whose two writes complete comes to its settle delay. -/
theorem exec_accEnable_completes {rate range : Int} (hrate : ∃ c ∈ s.cfg.params.accRateSet, (c.toNat : Int) = rate)
    (hrange : range = 0 ∨ range = s.cfg.params.accRange4G.toNat ∨ range = s.cfg.params.accRange8G.toNat)
    (hc : s.completesFirst 2) :
    exec (.accEnable rate range) s =
      .next (portDelay accSettleMs (s.afterAccWrites rate range) fun s => s.respondOk .none) := by
  obtain ⟨t, ht⟩ := exec_next (.accEnable rate range) s
  have hadmitted : (Instr.accEnable rate range).admitted s :=
    ⟨accRateValid_iff.mpr hrate, accRangeValid_iff.mpr hrange⟩
  have hend : (Instr.accEnable rate range).Ends _ t := (exec_run hadmitted ht).completed hc
  obtain ⟨c, -, rfl⟩ := hrate
  rw [ht, ← afterAccesses_accEnable c range hc]
  exact congrArg Host.Outcome.next hend

/-- Settles O30: the delay that expires is followed by the response. -/
theorem accEnableWritesBothRegistersAndSettles : Obligations.AccEnableWritesBothRegistersAndSettles := by
  intro s rate range a0 a1 a2 b0 b1 b2 hrate hrange h0 h1 hexpires
  have hc : s.completesFirst 2
    | 0, _ => ⟨_, _, _, h0⟩
    | 1, _ => ⟨_, _, _, h1⟩
  refine ⟨accCtrlBytes_bounds hrate hrange, ?_⟩
  rw [exec_accEnable_completes hrate hrange hc, portDelay_expires (by simpa using hexpires)]
  simp [State.afterAccWrites, State.afterDelay, State.record, State.deliver, accSettleMs]

/-- Settles O31: the checks come before the first access, the rate's first. -/
theorem accEnableRefusesInvalidOperands : Obligations.AccEnableRefusesInvalidOperands := by
  refine fun s rate range => ⟨fun hbad => ?_, fun hrate h2 h4 h8 => ?_⟩
  · have hrate : accRateValid s.cfg.params rate = false := by
      rw [← Bool.not_eq_true, accRateValid_iff]
      exact fun ⟨c, hc, heq⟩ => hbad c hc heq
    simp [exec, execAccEnable, hrate, State.deliver]
  · have hrange : accRangeValid s.cfg.params range = false := by
      rw [← Bool.not_eq_true, accRangeValid_iff]
      simp [h2, h4, h8]
    simp [exec, execAccEnable, accRateValid_iff.mpr hrate, hrange, State.deliver]

/-! ### ACC_DISABLE -/

/-- The disable byte of an admissible configuration has rate field 0 (R5, R17). -/
theorem disableByte_of_config (c : Config) : c.params.accCtrl1Disable.extractLsb' 3 5 = 0#5 := by
  have h : c.params.disableByteOk = true := by
    have := c.ok
    simp only [Params.admissible, Bool.and_eq_true] at this
    tauto
  simpa [Params.disableByteOk] using h

/-- Settles O33: the disable byte is an admissible one. -/
theorem accDisableWritesOneByte : Obligations.AccDisableWritesOneByte := by
  intro s b0 b1 b2 h
  refine ⟨disableByte_of_config s.cfg, ?_⟩
  rw [exec_accDisable_completes h, List.drop_one]
  rfl

/-! ### ACC_READ -/

/-- The gain of each range code (R85). -/
theorem accGain_of_code (c : Config) {f : BitVec 2} {g : Float64}
    (h : f = 0#2 ∧ g = float1 ∨ f = c.params.accRange4G ∧ g = float2 ∨ f = c.params.accRange8G ∧ g = float3p9) :
    accGain c.params f = some g := by
  obtain ⟨h2, h4, h8, -⟩ := gainMultiplexerLeavesOneFieldValueUndefined c
  obtain ⟨rfl, rfl⟩ | ⟨rfl, rfl⟩ | ⟨rfl, rfl⟩ := h
  · exact h2
  · exact h4
  · exact h8

/-- The state after ACC_READ's seven reads, answered with the bytes `d` (R112). -/
def State.afterAccReads (s : State) (d : Nat → Byte) : State :=
  { s with
    replies := s.replies.drop 7
    calls := s.calls + 7
    history := s.history ++
      [ .r8u .acc s.cfg.params.aOutXL (.value (d 0).toNat), .r8s .acc s.cfg.params.aOutXH (.value (d 1).toInt),
        .r8u .acc s.cfg.params.aOutYL (.value (d 2).toNat), .r8s .acc s.cfg.params.aOutYH (.value (d 3).toInt),
        .r8u .acc s.cfg.params.aOutZL (.value (d 4).toNat), .r8s .acc s.cfg.params.aOutZH (.value (d 5).toInt),
        .r8u .acc s.cfg.params.aCtrl4 (.value (d 6).toNat) ] }

/-- What ACC_READ ends with after its reads: the samples scaled by the gain of the field read, or free values where it
has none (R85, R112). -/
def State.respondAccRead (s : State) (d : Nat → Byte) : Option Float64 → State
  | some g =>
    s.respondOk
      (.three (accScale (accAssemble (d 1).toInt (d 0).toNat) g) (accScale (accAssemble (d 3).toInt (d 2).toNat) g)
        (accScale (accAssemble (d 5).toInt (d 4).toNat) g))
  | none => s.respondFree

section accRead

variable {d d1 d2 : Nat → Byte} (h : ∀ j, j < 7 → s.portReply j = .completes (d j) (d1 j) (d2 j))
include h

theorem afterAccesses_accRead :
    s.afterAccesses .acc (Instr.accRead.accesses s.cfg.params) 7 = s.afterAccReads d := by
  rw [State.afterAccesses_eq (by simp [Instr.accesses])]
  simp [State.afterAccReads, Instr.accesses, accessEvents_cons, Access.event, CallResult.ofReply, h, valueU8, valueI8]

/-- ACC_READ whose seven reads complete ends by the gain of the range field read. -/
theorem exec_accRead_completes :
    exec .accRead s = .next ((s.afterAccReads d).respondAccRead d
      (accGain s.cfg.params ((d 6).extractLsb' 4 2))) := by
  have hnext (j : Nat) (hj : j < 7) {s' : State} (hs' : s'.portReply 0 = s.portReply j) :
      s'.portReply 0 = .completes (d j) (d1 j) (d2 j) := hs'.trans (h j hj)
  rw [← afterAccesses_accRead h, ← (rangeFieldIsBitsFiveAndFour (d 6)).1]
  exact congrArg Host.Outcome.next <|
    (portReadU8_completes (hnext 0 (by decide) rfl)).trans <|
    (portReadI8_completes (hnext 1 (by decide) (by simp))).trans <|
    (portReadU8_completes (hnext 2 (by decide) (by simp))).trans <|
    (portReadI8_completes (hnext 3 (by decide) (by simp))).trans <|
    (portReadU8_completes (hnext 4 (by decide) (by simp))).trans <|
    (portReadI8_completes (hnext 5 (by decide) (by simp))).trans <|
    (portReadU8_completes (hnext 6 (by decide) (by simp))).trans rfl

end accRead

/-- Settles O34: the field read is a code, so it has a gain. -/
theorem accReadScalesTheThreeSamples : Obligations.AccReadScalesTheThreeSamples := by
  intro s d d1 d2 g h hcode
  rw [exec_accRead_completes h, accGain_of_code s.cfg hcode]
  simp only [State.respondAccRead, accAssemble_eq_add]
  rfl

/-- Settles O35: the field read has no gain. -/
theorem accReadGivesFreeValuesWithoutAGain : Obligations.AccReadGivesFreeValuesWithoutAGain := by
  intro s d d1 d2 h h2 h4 h8
  rw [exec_accRead_completes h, accGain_eq_none_iff.mpr ⟨h2, h4, h8⟩]
  rfl

/-! ### ACC_RDRANGE -/

theorem exec_accRdrange_completes (h : s.portReply 0 = .completes b0 b1 b2) :
    exec .accRdrange s = .next ((s.afterCall.record (.r8u .acc s.cfg.params.aCtrl4 (.value b0.toNat))).respondOk
      (.one ((accRangeField b0.toNat).setWidth 64))) :=
  congrArg Host.Outcome.next (portCall_completes h)

/-- Settles O36: the field of the unsigned byte is its bits 5 and 4. -/
theorem accRdrangeReturnsTheTwoBitField : Obligations.AccRdrangeReturnsTheTwoBitField := by
  intro s b0 b1 b2 h
  rw [exec_accRdrange_completes h, (rangeFieldIsBitsFiveAndFour b0).1, List.drop_one]
  rfl

end Sys2Proof.Machine
end

section
/-! PROOFS. The five magnetometer operations (R130 to R134): their checks, the state their accesses leave, written
whole, and what of the MAG state they depend on. -/

namespace Sys2Proof.Machine

variable {s : State} {m : MagState} {b0 b1 b2 : Byte}

/-! ### The 16-bit reads, and MAG_READ by its phase -/

/-- A 16-bit read is a signed high byte and an unsigned low byte (R34, R38). -/
theorem valueI16be_eq (b0 b1 b2 : Byte) : valueI16be b0 b1 b2 = 256 * b0.toInt + b1.toNat := by
  rw [valueI16be, BitVec.toInt_append]
  rfl

/-- A 16-bit read that completes hands on the sample (R34). -/
theorem portReadI16be_completes {u : SensorUnit} {addr : Byte} {k : Int → State → State}
    (h : s.portReply 0 = .completes b0 b1 b2) :
    portReadI16be u addr s k = k (valueI16be b0 b1 b2) (s.afterAccess u (.readI16be addr)) := by
  rw [portReadI16be, portCall_completes h, State.afterAccess, h]
  rfl

/-- The state after the reads of the three samples `raw`, at the registers given (R133, R134). -/
def State.afterSamples (s : State) (a0 a1 a2 : Byte) (raw : Nat → Int) : State :=
  { s with
    replies := s.replies.drop 3
    calls := s.calls + 3
    history := s.history ++
      [.r16be .mag a0 (.value (raw 0)), .r16be .mag a1 (.value (raw 1)), .r16be .mag a2 (.value (raw 2))] }

/-- The state after MAG_READ's three reads (R133). -/
abbrev State.afterMagReads (s : State) (raw : Nat → Int) : State :=
  s.afterSamples s.cfg.params.mOutX s.cfg.params.mOutY s.cfg.params.mOutZ raw

section samples

variable {d d1 d2 : Nat → Byte} {raw : Nat → Int}
  (h : ∀ j, j < 3 → s.portReply j = .completes (d j) (d1 j) (d2 j) ∧ raw j = 256 * (d j).toInt + (d1 j).toNat)
include h

theorem afterAccesses_samples (a0 a1 a2 : Byte) :
    s.afterAccesses .mag [.readI16be a0, .readI16be a1, .readI16be a2] 3 = s.afterSamples a0 a1 a2 raw := by
  rw [State.afterAccesses_eq (by simp)]
  simp [State.afterSamples, accessEvents_cons, Access.event, CallResult.ofReply, h, valueI16be_eq]

/-- Three completed 16-bit reads, at registers named by the parameters, hand on the three samples. -/
theorem portReadI16be_three (a0 a1 a2 : Params → Byte) (k : Int → Int → Int → State → State) :
    (portReadI16be .mag (a0 s.cfg.params) s fun r0 s => portReadI16be .mag (a1 s.cfg.params) s fun r1 s =>
      portReadI16be .mag (a2 s.cfg.params) s fun r2 s => k r0 r1 r2 s) =
    k (raw 0) (raw 1) (raw 2) (s.afterSamples (a0 s.cfg.params) (a1 s.cfg.params) (a2 s.cfg.params) raw) := by
  have hreply (j : Nat) (hj : j < 3) {s' : State} (hs' : s'.portReply 0 = s.portReply j) :
      s'.portReply 0 = .completes (d j) (d1 j) (d2 j) := hs'.trans (h j hj).1
  have hraw (j : Nat) (hj : j < 3) : raw j = valueI16be (d j) (d1 j) (d2 j) :=
    (h j hj).2.trans (valueI16be_eq _ _ _).symm
  rw [← afterAccesses_samples h, hraw 0 (by decide), hraw 1 (by decide), hraw 2 (by decide)]
  exact (portReadI16be_completes (hreply 0 (by decide) rfl)).trans <|
    (portReadI16be_completes (hreply 1 (by decide) (by simp))).trans <|
    (portReadI16be_completes (hreply 2 (by decide) (by simp))).trans rfl

/-- MAG_READ whose three reads complete ends by the phase (R133). -/
theorem exec_magRead_completes (hphase : s.phase ≠ .unbound) :
    exec .magRead s = .next
      (if s.phase = .enabled then
        (s.afterMagReads raw).respondOk
          (.three (magConvert (raw 0) s.gainXy) (magConvert (raw 1) s.gainXy) (magConvert (raw 2) s.gainZ))
      else (s.afterMagReads raw).respondFree) :=
  congrArg Host.Outcome.next <| (constructed_bound hphase).trans <|
    portReadI16be_three h Params.mOutX Params.mOutY Params.mOutZ _

end samples

/-! ### MAG_INIT -/

/-- The identity matches in all 24 bits: in each of the three bytes (R130). -/
theorem magIdMatches_iff :
    magIdMatches (valueU24be b0 b1 b2) = true ↔ b0 = 0x48#8 ∧ b1 = 0x34#8 ∧ b2 = 0x33#8 := by
  have h0 := b0.isLt
  have h1 := b1.isLt
  have h2 := b2.isLt
  obtain ⟨-, -, -, hvalue⟩ := portReadsExtendAndOrderTheirBytes b0 b1 b2
  rw [magIdMatches, beq_iff_eq, magIdConst, hvalue]
  simp only [BitVec.toNat_eq, BitVec.toNat_ofNat]
  omega

/-- The state after MAG_INIT has unbound the unit and read its identity (R130). -/
def State.afterIdentity (s : State) (id : Int) : State :=
  s.unbindMag.afterCall.record (.r24be .mag s.cfg.params.mId (.value id))

/-- MAG_INIT whose read completes ends by the match of the identity read (R130). -/
theorem exec_magInit_completes (h : s.portReply 0 = .completes b0 b1 b2) :
    exec .magInit s = .next
      (if magIdMatches (valueU24be b0 b1 b2) then
        ((s.afterIdentity (valueU24be b0 b1 b2)).setPhase .disabled).respondOk .none
      else (s.afterIdentity (valueU24be b0 b1 b2)).raise .unrecognizedDevice) :=
  congrArg Host.Outcome.next (portCall_completes h)

/-- Settles O37: the three bytes are the identity's. -/
theorem magInitAcceptsTheKnownIdentity : Obligations.MagInitAcceptsTheKnownIdentity := by
  intro s h
  rw [exec_magInit_completes h, if_pos (magIdMatches_iff.mpr ⟨rfl, rfl, rfl⟩), List.drop_one]
  rfl

/-- Settles O38: one byte that differs is enough. -/
theorem magInitRejectsEveryOtherIdentity : Obligations.MagInitRejectsEveryOtherIdentity := by
  intro s b0 b1 b2 h hother
  obtain ⟨-, -, -, hvalue⟩ := portReadsExtendAndOrderTheirBytes b0 b1 b2
  rw [exec_magInit_completes h, if_neg (mt magIdMatches_iff.mp hother), hvalue, List.drop_one]
  rfl

/-! ### MAG_ENABLE -/

theorem int_shiftLeft_eq_mul (n : Int) (k : Nat) : n <<< (k : Int) = 2 ^ k * n := by
  rw [Int.shiftLeft_natCast_right, Int.shiftLeft_eq, mul_comm]

/-- The control byte of a rate (R19). -/
theorem magCraByte_eq (rate : Int) : magCraByte rate = BitVec.ofInt 8 (4 * rate) :=
  congrArg (BitVec.ofInt 8) (int_shiftLeft_eq_mul rate 2)

/-- The control byte of a range (R20). -/
theorem magCrbByte_eq (range : Int) : magCrbByte range = BitVec.ofInt 8 (32 * range) :=
  congrArg (BitVec.ofInt 8) (int_shiftLeft_eq_mul range 5)

/-- The range code of a key of the gain table is the one above it (R88). -/
theorem magRangeKey_succ (key : Fin 7) : magRangeKey (key.val + 1) = some key := by
  revert key
  decide

/-- The state after MAG_ENABLE's three writes (R131). -/
def State.afterMagWrites (s : State) (rate range : Int) : State :=
  { s with
    replies := s.replies.drop 3
    calls := s.calls + 3
    history := s.history ++
      [ .w8 .mag s.cfg.params.mCra (BitVec.ofInt 8 (4 * rate)) (.value ()),
        .w8 .mag s.cfg.params.mCrb (BitVec.ofInt 8 (32 * range)) (.value ()),
        .w8 .mag s.cfg.params.mMode s.cfg.params.magModeContinuous (.value ()) ] }

theorem afterAccesses_magEnable (rate range : Int) (hc : s.completesFirst 3) :
    s.afterAccesses .mag (Instr.accesses s.cfg.params (.magEnable rate range)) 3 = s.afterMagWrites rate range := by
  obtain ⟨_, _, _, h0⟩ := hc 0 (by decide)
  obtain ⟨_, _, _, h1⟩ := hc 1 (by decide)
  obtain ⟨_, _, _, h2⟩ := hc 2 (by decide)
  rw [State.afterAccesses_eq (by simp [Instr.accesses]), State.afterMagWrites, ← magCraByte_eq, ← magCrbByte_eq]
  simp [Instr.accesses, accessEvents_cons, Access.event, CallResult.ofReply, h0, h1, h2]

/-- MAG_ENABLE whose operands are valid and whose three writes complete commits the gains of its range (R131). -/
theorem exec_magEnable_completes {rate : Int} (key : Fin 7) (hphase : s.phase ≠ .unbound)
    (hrate : magRateValid rate = true) (hc : s.completesFirst 3) :
    exec (.magEnable rate (key.val + 1)) s =
      .next (((s.afterMagWrites rate (key.val + 1)).commitGains (magGainLut key)).respondOk .none) := by
  obtain ⟨t, ht⟩ := exec_next (.magEnable rate (key.val + 1)) s
  have hadmitted : (Instr.magEnable rate (key.val + 1)).admitted s :=
    ⟨hphase, hrate, magRangeValid_iff.mpr (by omega)⟩
  have hend : (Instr.magEnable rate (key.val + 1)).Ends _ t := (exec_run hadmitted ht).completed hc
  obtain ⟨key', hkey', rfl⟩ := hend
  obtain rfl : key = key' := Option.some.inj ((magRangeKey_succ key).symm.trans hkey')
  rw [ht, ← afterAccesses_magEnable rate _ hc]
  rfl

/-- Settles O39: the three writes are followed by the commit and the response. -/
theorem magEnableWritesThreeRegistersAndLoadsTheGains :
    Obligations.MagEnableWritesThreeRegistersAndLoadsTheGains := by
  intro s rate range key d d1 d2 hphase hlo hhi hrange h
  subst hrange
  rw [exec_magEnable_completes key hphase (magRateValid_iff.mpr ⟨hlo, hhi⟩) fun j hj => ⟨_, _, _, h j hj⟩]
  rfl

/-- Settles O40: the checks come before the first access, the rate's first. -/
theorem magEnableRefusesInvalidOperands : Obligations.MagEnableRefusesInvalidOperands := by
  refine fun s rate range hphase => ⟨fun hbad => ?_, fun hlo hhi hbad => ?_⟩
  · have hrate : magRateValid rate = false := by
      rw [← Bool.not_eq_true, magRateValid_iff]
      omega
    simp [exec, execMagEnable, constructed_bound hphase, hrate, State.deliver]
  · have hrange : magRangeValid range = false := by
      rw [← Bool.not_eq_true, magRangeValid_iff]
      omega
    simp [exec, execMagEnable, constructed_bound hphase, magRateValid_iff.mpr ⟨hlo, hhi⟩, magRangeKey_none hrange,
      State.deliver]

/-! ### MAG_DISABLE -/

/-- Settles O41. -/
theorem magDisableKeepsTheGains : Obligations.MagDisableKeepsTheGains := by
  intro s b0 b1 b2 hphase h
  rw [exec_magDisable_completes hphase h, List.drop_one]
  rfl

/-! ### MAG_READ's outputs -/

/-- One conversion: +INF for the saturated sample, else the quotient (R93, R94). -/
theorem magConvert_eq (raw : Int) (g : BitVec 11) :
    magConvert raw g = if raw = -4096 then plusInf else fdiv (fmul (i2f raw) float100) (i2f g.toNat) := by
  by_cases h : raw = -4096
  · rw [magConvert, if_pos (magSat_iff.mpr h), if_pos h]
  · rw [magConvert, if_neg (mt magSat_iff.mp h), if_neg h, magScale]

/-- Settles O42: each axis is converted with its own gain. -/
theorem magReadConvertsEachAxisWhenEnabled : Obligations.MagReadConvertsEachAxisWhenEnabled := by
  intro s d d1 d2 raw hphase h
  rw [exec_magRead_completes h (by simp [hphase]), if_pos hphase, magConvert_eq, magConvert_eq, magConvert_eq]
  rfl

/-- Settles O43: the unit is not enabled, so the gains are not read. -/
theorem magReadGivesFreeValuesWhenDisabled : Obligations.MagReadGivesFreeValuesWhenDisabled := by
  intro s d d1 d2 raw hphase h
  rw [exec_magRead_completes h (by simp [hphase]), if_neg (by simp [hphase])]
  rfl

/-! ### MAG_RDRAW -/

/-- Settles O44: the flag is asserted, so the three reads are made. -/
theorem magRdrawReturnsRawSamplesInOrderXZY : Obligations.MagRdrawReturnsRawSamplesInOrderXZY := by
  intro s d d1 d2 raw hphase h
  exact congrArg Host.Outcome.next <| (constructed_bound hphase).trans <|
    portReadI16be_three h Params.mOutX Params.mOutZ Params.mOutY _

/-- Settles O45: the flag is checked before the first read. -/
theorem magRdrawRefusesAnUnassertedFlag : Obligations.MagRdrawRefusesAnUnassertedFlag := by
  intro s hphase
  simp [exec, execMagRdraw, constructed_bound hphase, State.deliver]

/-! ### Replacing the MAG state -/

/-- The phase check commutes with replacing the MAG state if what follows does, and if the unit is unbound in neither
state or in both. -/
theorem constructed_withMag {k : State → State} (hphase : m.phase = .unbound ↔ s.phase = .unbound)
    (hk : k (s.withMag m) = (k s).withMag m) : constructed (s.withMag m) k = (constructed s k).withMag m := by
  by_cases h : s.phase = .unbound
  · rw [constructed_unbound h, constructed_unbound (s := s.withMag m) (hphase.mpr h)]
    rfl
  · rw [constructed_bound h, constructed_bound (s := s.withMag m) (mt hphase.mp h), hk]

/-- Outside ENABLED, MAG_READ does the same with other gains. -/
theorem execMagRead_withMag (henabled : s.phase ≠ .enabled) (hphase : m.phase = s.phase) {t : State}
    (h : execMagRead s = .next t) : execMagRead (s.withMag m) = .next (t.withMag m) := by
  cases h
  refine congrArg Host.Outcome.next <| constructed_withMag (by rw [hphase]) <| portCall_withMag fun _ s1 h1 =>
    portCall_withMag fun _ s2 h2 => portCall_withMag fun _ s3 h3 => ?_
  have hkept : s3.phase = s.phase := congrArg MagState.phase (h3.trans (h2.trans h1))
  have hold : s3.phase ≠ .enabled := by rwa [hkept]
  have hnew : (s3.withMag m).phase ≠ .enabled := by rwa [← hphase] at henabled
  rw [if_neg hold, if_neg hnew]
  rfl

/-- MAG_RDRAW does the same with another MAG state, if the unit is unbound in neither. -/
theorem execMagRdraw_withMag {flag : Bool} (hphase : m.phase = .unbound ↔ s.phase = .unbound) {t : State}
    (h : execMagRdraw flag s = .next t) : execMagRdraw flag (s.withMag m) = .next (t.withMag m) := by
  cases h
  refine congrArg Host.Outcome.next <| constructed_withMag hphase ?_
  cases flag with
  | false => rfl
  | true =>
    simp only [Bool.not_true, Bool.false_eq_true, if_false]
    exact portCall_withMag fun _ _ _ => portCall_withMag fun _ _ _ => portCall_withMag fun _ _ _ => rfl

/-- Settles O55: the reads do not touch the phase, and the free values are drawn from no gain. -/
theorem disabledMagReadDoesNotUseTheGains : Obligations.DisabledMagReadDoesNotUseTheGains := by
  intro s m henabled hphase
  obtain ⟨t, ht⟩ := exec_next .magRead s
  exact ⟨t, ht, execMagRead_withMag henabled hphase ht⟩

/-- Settles O56: past the phase check nothing of the MAG state is read. -/
theorem magRdrawIgnoresGainsAndEnabling : Obligations.MagRdrawIgnoresGainsAndEnabling := by
  intro s m flag hs hm
  obtain ⟨t, ht⟩ := exec_next (.magRdraw flag) s
  exact ⟨t, ht, execMagRdraw_withMag (iff_of_false hm hs) ht⟩

end Sys2Proof.Machine
end

section
/-! PROOFS. The exceptions (R160 to R179): the refusal of an unbound magnetometer, the delay
that never expires, the failing call, and the MAG state after each ending, with an error or with OK. -/

namespace Sys2Proof.Machine

variable {i : Instr} {s s' t : State} {r : Response}

/-! ### The unbound magnetometer and the settle delay -/

/-- Settles O46: the phase check is the first thing each of the four operations does. -/
theorem unboundMagnetometerAnswersNotConstructed : Obligations.UnboundMagnetometerAnswersNotConstructed := by
  intro s i hphase hi
  obtain rfl | rfl | ⟨rate, range, rfl⟩ | ⟨flag, rfl⟩ := hi
  all_goals exact congrArg Host.Outcome.next (constructed_unbound hphase)

/-- Settles O32: the two writes complete, and the delay that follows them does not end. -/
theorem accEnableHangsIfTheDelayNeverEnds : Obligations.AccEnableHangsIfTheDelayNeverEnds := by
  intro s rate range a0 a1 a2 b0 b1 b2 hrate hrange h0 h1 hnever
  have hc : s.completesFirst 2
    | 0, _ => ⟨_, _, _, h0⟩
    | 1, _ => ⟨_, _, _, h1⟩
  rw [exec_accEnable_completes hrate hrange hc, portDelay_never (by simpa using hnever)]
  simp [State.afterAccWrites, State.afterDelay, State.record, State.hang, accSettleMs]

/-! ### The MAG state before the first access and after a transport error -/

theorem start_mag (hi : i ≠ .magInit) : (i.start s).mag = s.mag := by
  cases i with
  | magInit => exact absurd rfl hi
  | accEnable | accDisable | accRead | accRdrange | magEnable | magDisable | magRead | magRdraw => rfl

@[simp] theorem State.afterAccesses_mag (u : SensorUnit) (as : List Access) (n : Nat) :
    (s.afterAccesses u as n).mag = s.mag :=
  State.afterAccesses_keeps (P := (·.mag = s.mag)) (fun _ h => h) (fun _ _ h => h) n rfl

/-- The column TRANSPORT_ERROR of the table of R179. -/
theorem magAfter_transportError_iff :
    MagAfter i .transportError s t ↔
      if i = .magInit then t.phase = .unbound ∧ t.gainValid = false else t.mag = s.mag := by
  cases i <;> simp [MagAfter]

/-- A transport error leaves the MAG state in which the operation made its first access (R165). -/
theorem magAfter_transportError (h : t.mag = (i.start s).mag) : MagAfter i .transportError s t := by
  rw [magAfter_transportError_iff]
  split_ifs with hi
  · subst hi
    exact ⟨congrArg MagState.phase h, congrArg MagState.gainValid h⟩
  · exact h.trans (start_mag hi)

/-- Settles O48, by the run of the operation's accesses up to the call that fails. -/
theorem transportErrorEndsTheOperationAtTheFailingCall :
    Obligations.TransportErrorEndsTheOperationAtTheFailingCall := by
  refine ⟨rfl, fun i s j e hi hj hc hfail => ?_⟩
  obtain ⟨t, ht⟩ := exec_next i s
  obtain ⟨e', he', rfl⟩ | ⟨hstall, -⟩ :=
    (exec_run hi ht).interrupted hj (by rwa [Instr.start_completesFirst]) (by simp [hfail])
  · rw [Instr.start_portReply, hfail] at he'
    cases he'
    refine ⟨_, ht, ?_, by simp, rfl, ?_, by simp, ?_⟩
    · rw [State.raiseTransport_eq, State.deliver_history, State.afterAccesses_history, Instr.start_history,
        Instr.start_accessEvents]
    · rw [State.raiseTransport_eq, State.deliver_calls, State.afterAccesses_calls hj, Instr.start_calls]
    · exact magAfter_transportError_iff.mp (magAfter_transportError (State.afterAccesses_mag _ _ _))
  · rw [Instr.start_portReply, hfail] at hstall
    cases hstall

/-! ### The MAG state after each ending -/

/-- If `i` has ended from `s` in `t` with a response, the MAG state stands as the table of R179 says for its status. -/
def EndsByTable (i : Instr) (s t : State) : Prop :=
  ∀ r, t.responses = s.responses ++ [r] → MagAfter i r.status s t

/-- A range code's key is the place of its pair in the table (R88). -/
theorem magGainLut_of_magRangeKey {range : Int} {key : Fin 7} (h : magRangeKey range = some key) :
    ∃ hlt : (range - 1).toNat < 7, 1 ≤ range ∧ magGainLut key = magGainTable[(range - 1).toNat] := by
  have hvalid : magRangeValid range = true := by
    by_contra hbad
    rw [magRangeKey_none (Bool.not_eq_true _ ▸ hbad)] at h
    cases h
  obtain ⟨key', hkey', hplace⟩ := magRangeKey_some hvalid
  obtain rfl : key' = key := Option.some.inj (hkey'.symm.trans h)
  have hnat : (range - 1).toNat = key'.val := by omega
  refine ⟨hnat ▸ key'.isLt, by omega, ?_⟩
  simp only [hnat]
  rfl

namespace EndsByTable

theorem deliver (hs : s'.responses = s.responses) (h : MagAfter i r.status s (s'.deliver r)) :
    EndsByTable i s (s'.deliver r) := by
  intro r' hr
  rw [State.deliver_responses, hs] at hr
  obtain rfl : r = r' := by simpa using hr
  exact h

theorem hang (hs : s'.responses = s.responses) : EndsByTable i s s'.hang := by
  intro r hr
  rw [State.hang_responses, hs] at hr
  simp at hr

theorem phaseCheck {k : State → State} (hraise : MagAfter i .notConstructed s (s.raise .notConstructed))
    (hk : s.phase ≠ .unbound → EndsByTable i s (k s)) : EndsByTable i s (constructed s k) := by
  by_cases h : s.phase = .unbound
  · exact constructed_unbound h ▸ deliver rfl hraise
  · exact constructed_bound h ▸ hk h

/-- An operation that fails a check ends in the row of that check's error. -/
theorem of_refused (hi : ¬ i.admitted s) (h : exec i s = .next t) : EndsByTable i s t := by
  cases i with
  | accDisable | accRead | accRdrange | magInit => exact absurd trivial hi
  | accEnable rate range =>
    cases h
    split_ifs with hrate hrange
    · exact deliver rfl rfl
    · exact deliver rfl rfl
    · exact absurd ⟨by simpa using hrate, by simpa using hrange⟩ hi
  | magEnable rate range =>
    cases h
    refine phaseCheck rfl fun hphase => ?_
    split_ifs with hrate
    · exact deliver rfl rfl
    · have hrange : ¬ magRangeValid range = true := fun hrange => hi ⟨hphase, by simpa using hrate, hrange⟩
      rw [magRangeKey_none (Bool.not_eq_true _ ▸ hrange)]
      exact deliver rfl rfl
  | magDisable | magRead =>
    cases h
    exact phaseCheck rfl fun hphase => absurd hphase hi
  | magRdraw rawFlag =>
    cases h
    refine phaseCheck rfl fun hphase => ?_
    split_ifs with hflag
    · exact deliver rfl rfl
    · exact absurd ⟨hphase, by simpa using hflag⟩ hi

/-- An operation whose accesses have completed ends in the row of its answer. -/
theorem of_ends (h : i.Ends s' t) (hmag : s'.mag = (i.start s).mag) (hs : s'.responses = s.responses) :
    EndsByTable i s t := by
  cases i with
  | accEnable => exact h ▸ portDelay_of (deliver hs hmag) (hang hs)
  | accDisable => exact h ▸ deliver hs hmag
  | accRead | magRead => obtain ⟨_, _, _, rfl⟩ | rfl := h <;> exact deliver hs hmag
  | accRdrange => obtain ⟨_, rfl⟩ := h; exact deliver hs hmag
  | magInit =>
    have hvalid : s'.gainValid = false := congrArg MagState.gainValid hmag
    obtain rfl | rfl := h
    · exact deliver hs ⟨rfl, hvalid⟩
    · exact deliver hs ⟨congrArg MagState.phase hmag, hvalid⟩
  | magEnable rate range =>
    obtain ⟨key, hkey, rfl⟩ := h
    exact deliver hs ⟨rfl, rfl, magGainLut_of_magRangeKey hkey⟩
  | magDisable =>
    have hdisabled : (s'.setPhase .disabled).mag = { s.mag with phase := .disabled } :=
      congrArg (fun m : MagState => { m with phase := .disabled }) hmag
    exact h ▸ deliver hs hdisabled
  | magRdraw => obtain ⟨_, _, _, rfl⟩ := h; exact deliver hs hmag

/-- A run of an operation's accesses ends in the row of TRANSPORT_ERROR, in that of the operation's answer, or never. -/
theorem of_run {u : SensorUnit} {as : List Access} (h : AccessRun u i.Ends as s' t)
    (hmag : s'.mag = (i.start s).mag) (hs : s'.responses = s.responses) : EndsByTable i s t := by
  induction h with
  | ended hend => exact of_ends hend hmag hs
  | completes _ _ ih => exact ih hmag hs
  | fails _ => exact deliver hs (magAfter_transportError hmag)
  | stalls _ => exact hang hs

end EndsByTable

/-- Settles O52: an operation is refused by a check, or makes a run of its accesses. -/
theorem magStateAfterEachEndingIsTheTables : Obligations.MagStateAfterEachEndingIsTheTables := by
  intro i s t r h
  by_cases hi : i.admitted s
  · exact EndsByTable.of_run (exec_run hi h) rfl (Instr.start_responses i s) r
  · exact EndsByTable.of_refused hi h r

end Sys2Proof.Machine
end

section
/-! PROOFS. The reset input (R190, R191): what it leaves is the same wherever it stands among the host's inputs. -/

namespace Sys2Proof.Machine

/-- A step obeys a reset that is the next input, and one behind a command that waits at a busy port (R190, log 7). -/
theorem step_obeysReset {s : State} {rest : List HostInput}
    (h : s.hostInputs = .reset :: rest ∨
      s.commandPort = .busy ∧ .reset ∈ rest ∧ ∃ cw, s.hostInputs = .command cw :: rest) :
    step s = .next s.takeReset.resetInput := by
  obtain hnext | ⟨hbusy, hbehind, cw, hwaiting⟩ := h
  · exact step_reset hnext
  · exact step_resetBehindCommand hwaiting hbusy hbehind

/-- Settles O9: the step obeys the reset, and the state it leaves is the one written out, field by field. -/
theorem resetInputLeavesTheResetMagState : Obligations.ResetInputLeavesTheResetMagState := by
  intro s rest h
  rw [step_obeysReset h, State.resetInput, State.unbindMag, State.takeReset]

end Sys2Proof.Machine
end
